-- ==== Sys2Proof/Word.lean ====
section
/-! DEFINITION. The names of the things the Cemora 2440 numbers: ports, slots, pages, frames, words, bytes. -/

namespace Sys2Proof

/-- A byte on a host port. -/
abbrev Byte := BitVec 8

/-- A host port, HP0 to HP3. -/
abbrev PortId := Fin 4

/-- A session slot, 0 to 7. -/
abbrev Slot := Fin 8

/-- A logical page, LP 0 to LP 255. -/
abbrev LP := Fin 256

/-- A page frame, PF 0 to PF 511. -/
abbrev PF := Fin 512

/-- A word index inside a page frame, 0 to 63. -/
abbrev WordIx := Fin 64

/-- A commit group: index g stands for the group of tag g + 1 (tags 1 to 4; tag 0 names no group). -/
abbrev GroupIx := Fin 4

/-- A session handle (bit 7 clear, generation in bits 6 to 3, slot in bits 2 to 0), or 0x80 for "no session". -/
abbrev Handle := BitVec 8

/-- The seven-bit syndrome of a decoded word (R126). -/
abbrev Syndrome := BitVec 7

/-- The 32 data bits of a word of the store. -/
abbrev Word := BitVec 32

end Sys2Proof
end

