-- ==== Sys2Proof/Config.lean ====
section
/-! DEFINITION. What an implementation fixes and the spec leaves open (free values, no body), and the limits the spec
fixes ("Device limits at a glance"). -/

namespace Sys2Proof

/-- FREE VALUE (assumption 7). R126 gives each data bit a syndrome of its own with exactly three bits set and does not say
which of the 35 such values it is. The draws pick them one after another; every draw gives an assignment R126 allows. -/
opaque Config.syndromeDraw : Nat → Nat

/-- FREE VALUE (assumption 8). R164 does not order the ports when one event leaves several of them with a request to take
into service; the n-th such choice is this draw. -/
opaque Config.portDraw : Nat → Nat

/-- Capacity of a port's notice queue (R146). -/
def Config.noticeCapacity : Nat := 8
/-- Capacity of a port's watch list (R150). -/
def Config.watchCapacity : Nat := 16
/-- Credits of a port (R158). -/
def Config.credits : Nat := 4
/-- Entries of a session's shadow list (R40). -/
def Config.shadowCapacity : Nat := 32
/-- Entries of a session's guard list (R40). -/
def Config.guardCapacity : Nat := 16
/-- Pages of the relocation list (R140). -/
def Config.relocationCapacity : Nat := 4
/-- Entries of the write-back list (R128). -/
def Config.writeBackCapacity : Nat := 8
/-- Records of the fault log (R133). -/
def Config.logCapacity : Nat := 16
/-- The saturation value of a frame's corrected count (R28). -/
def Config.correctedMax : Nat := 15
/-- The most bytes a WRITE carries (R57). -/
def Config.writeMax : Nat := 64
/-- The longest parameter field of a REQUEST frame (R162). -/
def Config.paramMax : Nat := 69

end Sys2Proof
end

