-- ==== Sys2Proof/Syntax.lean ====
section
/-! DEFINITION. The commands of the Cemora 2440: one constructor of Instr per row of spec/opcode_table.json,
and the requests that a REQUEST frame carries. -/

namespace Sys2Proof

/-- A settings record as it stands in a SETCONFIG parameter, field by field and unchecked (R179). -/
structure ConfigRecord where
  scrubPeriod     : BitVec 16
  retireThreshold : Byte
  defaultBudget   : BitVec 16
  quotas          : Vector Byte 4
  /-- Per port: bit 0 the RESP mask, bit 1 the NOTE mask, bit 2 fault notices. -/
  portBytes       : Vector Byte 4
deriving DecidableEq, Repr

/-- What a request asks for, with its parameters as they cross the wire (R174). -/
inductive RequestOp where
  | openSession (group : Byte) (budget : BitVec 16)
  | abort (handle : Handle)
  | guard (handle : Handle) (page : LP) (version : BitVec 16)
  | read (handle : Handle) (address length : BitVec 16)
  | write (handle : Handle) (address : BitVec 16) (flags : Byte) (data : List Byte)
  | commit (handle : Handle)
  | close (group : Byte)
  | pageInfo (page : LP)
  | poolInfo
  | sessInfo (slot : Byte)
  | watch (page : LP)
  | unwatch (page : LP)
  | setConfig (record : ConfigRecord)
  | getConfig
  | logRead (seq : BitVec 16)
deriving DecidableEq, Repr

/-- A request: the controller's tag, returned in the response, and what is asked (R162). -/
structure Request where
  tag : Byte
  op  : RequestOp
deriving DecidableEq, Repr

/-- Why a port discarded a frame, the last one kept (R158, R162). -/
inductive DiscardCause where
  | none | notReady | truncated | length | crc | noCredit | frameCode
deriving DecidableEq, Repr

/-- The two ends of a frame's first byte: the assertion of CSN, at which the status byte is taken (R160), and the end of
the byte, when the frame code is whole and the record to shift out is fixed (R166). -/
inductive CodeBytePart where
  | csnAsserted
  | codeByteEnd (code : Byte)
deriving DecidableEq, Repr

/-- The commands. `port` is the host port a command reaches; `sent` is the whole bytes the controller sends after the frame
code; `tag` is the request's tag. The fifteen request rows (`openSession` to `logRead`) are the release of a well-shaped
REQUEST frame that carries that request (assumption 1). -/
inductive Instr where
  | deviceReset
  | initializationSweep
  | sweepEnd
  | tick
  | expiry
  | request (port : PortId) (sent : List Byte)
  | fetch (port : PortId) (sent : List Byte)
  | note (port : PortId) (sent : List Byte)
  | pstat (port : PortId) (sent : List Byte)
  | preset (port : PortId) (sent : List Byte)
  | unknownFrameCode (port : PortId) (code : Byte) (sent : List Byte)
  | openSession (port : PortId) (tag : Byte) (group : Byte) (budget : BitVec 16)
  | abort (port : PortId) (tag : Byte) (handle : Handle)
  | guard (port : PortId) (tag : Byte) (handle : Handle) (page : LP) (version : BitVec 16)
  | read (port : PortId) (tag : Byte) (handle : Handle) (address length : BitVec 16)
  | write (port : PortId) (tag : Byte) (handle : Handle) (address : BitVec 16) (flags : Byte) (data : List Byte)
  | commit (port : PortId) (tag : Byte) (handle : Handle)
  | close (port : PortId) (tag : Byte) (group : Byte)
  | pageInfo (port : PortId) (tag : Byte) (page : LP)
  | poolInfo (port : PortId) (tag : Byte)
  | sessInfo (port : PortId) (tag : Byte) (slot : Byte)
  | watch (port : PortId) (tag : Byte) (page : LP)
  | unwatch (port : PortId) (tag : Byte) (page : LP)
  | setConfig (port : PortId) (tag : Byte) (record : ConfigRecord)
  | getConfig (port : PortId) (tag : Byte)
  | logRead (port : PortId) (tag : Byte) (seq : BitVec 16)
  /-- `flips` is the disturbance that the word accessed has suffered since its last access: bits 0 to 31 its data bits,
  bits 32 to 38 its check bits (assumption 5). -/
  | storeArbiterGrant (flips : BitVec 39)
  | readCompletion (port : PortId)
  | writePlacementEnd (port : PortId)
  | jobCompletion
  | relocationSwitch
  | relocationStart
  | scrubVisit
  | scrubReadEnd
  | frameCodeByteEnd (port : PortId) (part : CodeBytePart)
deriving DecidableEq, Repr

end Sys2Proof
end

