-- ==== Sys2Proof/Decode.lean ====
section
/-! DEFINITION. Reading requests from the bytes of a REQUEST frame (R162, R173 to R175), writing them back, and the
host's question about table words. -/

namespace Sys2Proof

/-- The host's question. spec/opcode_table.json gives no row a pattern of bits, so no word spells a command. -/
def decodeTableWord (_nbits _w : Nat) : Option Instr := none

/-- The 16-bit value of two bytes, least significant first ("Byte order"). -/
def le16 (lo hi : Byte) : BitVec 16 := hi ++ lo

/-- The two bytes of a 16-bit value, least significant first ("Byte order"). -/
def bytes16 (v : BitVec 16) : List Byte := [v.extractLsb' 0 8, v.extractLsb' 8 8]

/-- The logical page a byte names: every value names one (R175). -/
def pageOfByte (b : Byte) : LP := b.toFin

/-- The byte that names a logical page. -/
def byteOfPage (page : LP) : Byte := BitVec.ofFin page

/-- One bit step of the CRC register, polynomial x⁸+x²+x+1 (R173). -/
def crc8Shift (reg : Byte) : Byte :=
  if reg.msb then (reg <<< 1) ^^^ 0x07#8 else reg <<< 1

/-- One byte taken into the CRC register, most significant bit first (R173). -/
def crc8Byte (reg byte : Byte) : Byte :=
  crc8Shift (crc8Shift (crc8Shift (crc8Shift (crc8Shift (crc8Shift (crc8Shift (crc8Shift (reg ^^^ byte))))))))

/-- The frame check of a span of bytes: initial value 0xFF, no final inversion (R173). -/
def crc8 (span : List Byte) : Byte := span.foldl crc8Byte 0xFF#8

/-- The request code of R174. -/
def RequestOp.code : RequestOp → Byte
  | .openSession _ _ => 0x01
  | .abort _ => 0x02
  | .guard _ _ _ => 0x03
  | .read _ _ _ => 0x04
  | .write _ _ _ _ => 0x05
  | .commit _ => 0x06
  | .close _ => 0x07
  | .pageInfo _ => 0x08
  | .poolInfo => 0x09
  | .sessInfo _ => 0x0A
  | .watch _ => 0x0B
  | .unwatch _ => 0x0C
  | .setConfig _ => 0x0D
  | .getConfig => 0x0E
  | .logRead _ => 0x0F

/-- The 13 bytes of a settings record (R179). -/
def ConfigRecord.bytes (r : ConfigRecord) : List Byte :=
  bytes16 r.scrubPeriod ++ [r.retireThreshold] ++ bytes16 r.defaultBudget ++ r.quotas.toList ++ r.portBytes.toList

/-- The parameters of a request in their order on the wire (R174). -/
def RequestOp.params : RequestOp → List Byte
  | .openSession group budget => group :: bytes16 budget
  | .abort handle => [handle]
  | .guard handle page version => handle :: byteOfPage page :: bytes16 version
  | .read handle address length => handle :: (bytes16 address ++ bytes16 length)
  | .write handle address flags data =>
      handle :: (bytes16 address ++ flags :: BitVec.ofNat 8 data.length :: data)
  | .commit handle => [handle]
  | .close group => [group]
  | .pageInfo page => [byteOfPage page]
  | .poolInfo => []
  | .sessInfo slot => [slot]
  | .watch page => [byteOfPage page]
  | .unwatch page => [byteOfPage page]
  | .setConfig record => record.bytes
  | .getConfig => []
  | .logRead seq => bytes16 seq

/-- The bytes of a REQUEST frame before its CRC: request code, tag, parameter length, parameters (R174). -/
def Request.body (r : Request) : List Byte :=
  r.op.code :: r.tag :: BitVec.ofNat 8 r.op.params.length :: r.op.params

/-- The bytes a controller sends after the frame code for a request: the body and its CRC (R173, R174). -/
def encodeRequest (r : Request) : List Byte := r.body ++ [crc8 r.body]

/-- The request that a request code and its parameters spell; none where the code is not defined or the parameter length
is not the one that code requires (R174, R175). A WRITE requires 5 bytes and its length byte's worth of data, and no
parameter field is longer than 69 bytes (R162; assumption 17). -/
def parseOp (code : Byte) (params : List Byte) : Option RequestOp :=
  match code.toNat, params with
  | 1, [group, b0, b1] => some (.openSession group (le16 b0 b1))
  | 2, [handle] => some (.abort handle)
  | 3, [handle, page, v0, v1] => some (.guard handle (pageOfByte page) (le16 v0 v1))
  | 4, [handle, a0, a1, l0, l1] => some (.read handle (le16 a0 a1) (le16 l0 l1))
  | 5, handle :: a0 :: a1 :: flags :: len :: data =>
      if data.length = len.toNat ∧ data.length ≤ Config.writeMax then
        some (.write handle (le16 a0 a1) flags data)
      else none
  | 6, [handle] => some (.commit handle)
  | 7, [group] => some (.close group)
  | 8, [page] => some (.pageInfo (pageOfByte page))
  | 9, [] => some .poolInfo
  | 10, [slot] => some (.sessInfo slot)
  | 11, [page] => some (.watch (pageOfByte page))
  | 12, [page] => some (.unwatch (pageOfByte page))
  | 13, [p0, p1, threshold, b0, b1, q0, q1, q2, q3, m0, m1, m2, m3] =>
      some (.setConfig
        { scrubPeriod := le16 p0 p1, retireThreshold := threshold, defaultBudget := le16 b0 b1,
          quotas := #v[q0, q1, q2, q3], portBytes := #v[m0, m1, m2, m3] })
  | 14, [] => some .getConfig
  | 15, [s0, s1] => some (.logRead (le16 s0 s1))
  | _, _ => none

/-- Checks 2 to 4 of R162 on the bytes after a REQUEST frame's code: TRUNCATED, then LENGTH, then CRC. -/
def judgeRequest (sent : List Byte) : Except DiscardCause Request :=
  match sent with
  | code :: tag :: plen :: rest =>
    if rest.length < plen.toNat + 1 then .error .truncated
    else
      match parseOp code (rest.take plen.toNat) with
      | none => .error .length
      | some op =>
        if rest.length ≠ plen.toNat + 1 then .error .length
        else if rest.drop plen.toNat = [crc8 (code :: tag :: plen :: rest.take plen.toNat)] then .ok ⟨tag, op⟩
        else .error .crc
  | _ => .error .truncated

end Sys2Proof
end

