-- ==== Sys2Proof/Machine/State.lean ====
section
/-! DEFINITION. The state of the Cemora 2440 as plain data, the reasons a step could stop, and the state right after a
device reset. -/

namespace Sys2Proof.Machine

/-! ## Page Map (Chapter 1) -/

/-- Whether a logical page's committed content is sound (R6). -/
inductive Condition where
  | normal | poisoned
deriving DecidableEq, Repr

/-- A map entry (R2). -/
structure MapEntry where
  frame      : PF
  version    : BitVec 16
  condition  : Condition
  claim      : Option Slot
  relocating : Bool
deriving DecidableEq, Repr

/-- An entry of the claim wait list: who waits, and for which page (R79). -/
structure WaitEntry where
  slot : Slot
  page : LP
deriving DecidableEq, Repr

/-! ## Frame Table and store (Chapters 2 and 8) -/

/-- The role of a page frame (R20). -/
inductive FrameState where
  | free | mapped | shadow | held | moving | retired
deriving DecidableEq, Repr

/-- Whose use a page frame serves, where it has an owner (R19). -/
inductive Owner where
  | page (page : LP)
  | session (slot : Slot)
deriving DecidableEq, Repr

/-- A frame record (R19). -/
structure FrameRec where
  state           : FrameState
  owner           : Option Owner
  pins            : Nat
  corrected       : Nat
  retireOnRelease : Bool
deriving DecidableEq, Repr

/-- A word of the store as it stands: its 32 data bits, and in place of its 7 check bits the difference between them and
the check bits computed afresh from the data bits, which is the word's syndrome (R126; assumption 6). -/
structure StoreWord where
  bits : Word
  diff : Syndrome
deriving DecidableEq, Repr

/-- A word of the store at its address, frame number times 64 plus word index. -/
abbrev StoreCell := Nat × StoreWord

/-- A correction waiting to be written back (R127, R128). -/
structure WriteBack where
  frame    : PF
  word     : WordIx
  syndrome : Syndrome
  data     : Word
deriving DecidableEq, Repr

/-- The kind of a fault record (R133). -/
inductive FaultKind where
  | corrected | uncorrectable | retired | relocated
deriving DecidableEq, Repr

/-- The reader that met a word (R127). -/
inductive ReadContext where
  | read | copy | scrub | relocate
deriving DecidableEq, Repr

/-- A fault record; a field absent for the record's kind is none (R134). -/
structure FaultRecord where
  seq      : BitVec 16
  kind     : FaultKind
  frame    : PF
  word     : Option WordIx
  syndrome : Option Syndrome
  context  : Option ReadContext
  page     : Option LP
  handle   : Option Handle
deriving DecidableEq, Repr

/-- A scrub read in flight: the frame it pins and the next word it reads, 64 when none is left (R139). -/
structure ScrubRead where
  frame : PF
  next  : Nat
deriving DecidableEq, Repr

/-! ## Session Table, Group Table and Copy Unit (Chapters 3 to 7) -/

/-- The life stage of a session (R38). -/
inductive SessionState where
  | free | opened | ready
deriving DecidableEq, Repr

/-- Whether a session waits on the device (R39). -/
inductive Activity where
  | idle | copying | parked
deriving DecidableEq, Repr

/-- A shadow list entry (R37). -/
structure ShadowEntry where
  page   : LP
  frame  : PF
  zeroed : Bool
deriving DecidableEq, Repr

/-- A guard list entry (R93). -/
structure GuardEntry where
  page    : LP
  version : BitVec 16
deriving DecidableEq, Repr

/-- A parked write: its logical address and its data, whose number is its length (R80). -/
structure ParkedWrite where
  address : BitVec 16
  data    : List Byte
deriving DecidableEq, Repr

/-- A session record; the slot is its position in the table (R37). -/
structure SessionRec where
  generation : BitVec 4
  port       : Option PortId
  state      : SessionState
  group      : Option GroupIx
  budget     : Nat
  activity   : Activity
  shadows    : List ShadowEntry
  guards     : List GuardEntry
  parked     : Option ParkedWrite
  waitPage   : Option LP
deriving DecidableEq, Repr

/-- The stage of a group's transaction (R110). -/
inductive GroupState where
  | idle | gathering | closing
deriving DecidableEq, Repr

/-- A group record (R110). -/
structure GroupRec where
  state   : GroupState
  members : List Slot
  closer  : Option PortId
deriving DecidableEq, Repr

/-- A write that a job or a placement lays over a shadow: offset in the page and data (R66). -/
structure PendingWrite where
  offset : Nat
  data   : List Byte
deriving DecidableEq, Repr

/-- Whether a job serves the WRITE in service or a granted parked write (R66). -/
inductive Origin where
  | inService | granted
deriving DecidableEq, Repr

/-- The kind of a job, with the fields R66 gives jobs of that kind. -/
inductive JobKind where
  | copy (session : Slot) (source : PF) (write : PendingWrite) (origin : Origin)
  | zero (session : Slot) (write : PendingWrite) (origin : Origin)
  | relocate (source : PF)
deriving DecidableEq, Repr

/-- How far a job has come: the next access it asks for. `place []` asks for none: the job has made its last access.
A waiting job stands at its first access (R66, R68, R69, R142). -/
inductive Progress where
  | fillRead (word : WordIx)
  | fillWrite (word : WordIx) (data : Word)
  | place (todo : List WordIx)
deriving DecidableEq, Repr

/-- A job of the copy queue (R66). -/
structure Job where
  kind     : JobKind
  page     : LP
  target   : PF
  progress : Progress
deriving DecidableEq, Repr

/-! ## Settings (Chapter 9) -/

/-- The settings record (R154). -/
structure Settings where
  scrubPeriod     : Nat
  retireThreshold : Nat
  defaultBudget   : Nat
  quotas          : Vector Nat 4
  respMask        : Vector Bool 4
  noteMask        : Vector Bool 4
  faultNotices    : Vector Bool 4
deriving DecidableEq, Repr

/-! ## Host ports (Chapters 9 to 11) -/

/-- Why a session was aborted, with the logical page reported for GUARD and MEDIA (R47). -/
inductive AbortReason where
  | requested | expired | guard (page : LP) | group | media (page : LP) | portReset
deriving DecidableEq, Repr

/-- The outcome of a group in its GROUP_RESULT (R121). -/
inductive GroupOutcome where
  | applied (members pages : Nat)
  | aborted (first : Handle) (reason : AbortReason)
deriving DecidableEq, Repr

/-- The result of a granted write that failed (R88). -/
inductive WriteFailure where
  | noPage | poisoned
deriving DecidableEq, Repr

/-- What a notice says (R148). -/
inductive NoticeBody where
  | sessionAborted (handle : Handle) (reason : AbortReason)
  | writeDone (handle : Handle) (newClaim zeroed : Bool)
  | writeFailed (handle : Handle) (failure : WriteFailure)
  | groupApplied (handle : Handle) (pages : Nat)
  | groupResult (group : GroupIx) (outcome : GroupOutcome)
  | watchChanged (page : LP) (version : BitVec 16) (handle : Handle)
  | fault (seq : BitVec 16) (kind : FaultKind)
deriving DecidableEq, Repr

/-- A notice in a notice queue, with the overrun value it took as it joined (R147). -/
structure Notice where
  body    : NoticeBody
  overrun : Bool
deriving DecidableEq, Repr

/-- What PAGEINFO reports (R18). -/
structure PageReport where
  page       : LP
  frame      : PF
  version    : BitVec 16
  condition  : Condition
  claim      : Option Handle
  relocating : Bool
  parked     : Nat
deriving DecidableEq, Repr

/-- What POOLINFO reports (R36). -/
structure PoolReport where
  free             : Nat
  mapped           : Nat
  shadow           : Nat
  held             : Nat
  moving           : Nat
  retired          : Nat
  poolLength       : Nat
  relocationLength : Nat
deriving DecidableEq, Repr

/-- What SESSINFO reports (R55). -/
structure SessionReport where
  handle   : Handle
  state    : SessionState
  port     : Option PortId
  group    : Option GroupIx
  budget   : Nat
  activity : Activity
  shadows  : Nat
  zeroed   : Nat
  job      : Bool
  guards   : Nat
  waitPage : Option LP
deriving DecidableEq, Repr

/-- The answer to a request: its result, with the payload R176 gives that request and result. -/
inductive Answer where
  | done
  | openedOk (handle : Handle)
  | readOk (data : List Byte)
  | poisoned (page : LP)
  | writeOk (newClaim zeroed : Bool)
  | conflict (holder : Handle)
  | aborted (reason : AbortReason)
  | committed (pages : Nat)
  | ready
  | applied (members pages : Nat)
  | closing
  | waiting
  | badValue
  | quota
  | groupClosed
  | limit
  | bounds
  | stale
  | notOwner
  | notOpen
  | noSession
  | deadlock
  | noPage
  | busy
  | already
  | groupEmpty
  | notWatched
  | pageInfo (report : PageReport)
  | poolInfo (report : PoolReport)
  | sessInfo (report : SessionReport)
  | watched (entries : Nat)
  | config (settings : Settings)
  | logOk (record : FaultRecord) (held : Nat) (next : BitVec 16)
  | logEmpty (next : BitVec 16)
deriving DecidableEq, Repr

/-- A response: the tag of its request and the answer (R166). -/
structure Response where
  tag    : Byte
  answer : Answer
deriving DecidableEq, Repr

/-- A word access of a READ's data copy: the covered page, its source frame, the word, and the first and last byte of the
word that lie in the span (R13). -/
structure ReadAccess where
  page  : LP
  frame : PF
  word  : WordIx
  first : Nat
  last  : Nat
deriving DecidableEq, Repr

/-- What a request in service is doing (R165). -/
inductive Stage where
  /-- It is served whole in one event, or it was cancelled and awaits its response in the same event. -/
  | atOnce
  /-- A READ after its capture: the frames it pins in span order, the words still to read, the bytes copied so far. -/
  | reading (pins : List PF) (todo : List ReadAccess) (data : List Byte)
  /-- A WRITE on the shadowed path: the shadow frame, the write, the words still to place, the entry's zeroed flag. -/
  | placing (frame : PF) (write : PendingWrite) (todo : List WordIx) (zeroed : Bool)
  /-- A WRITE on the first-write path, whose job is queued or active. -/
  | copying
deriving DecidableEq, Repr

/-- The request in service on a port, the session it names, where it names one that lives, and its stage (R164, R165). -/
structure InService where
  request : Request
  session : Option Slot
  stage   : Stage
deriving DecidableEq, Repr

/-- The frame in progress on a port's wire (R159, R160, R166). -/
inductive WireFrame where
  /-- CSN is released. -/
  | idle
  /-- CSN is asserted, the frame code is not whole yet; the status byte was taken at the assertion. -/
  | begun (status : Byte)
  /-- The frame code is whole and the record to shift out is fixed; `held` says it is the head of a queue, or the status
  detail, and not an empty record or filler. -/
  | coded (status code : Byte) (record : List Byte) (held : Bool)
  /-- A device reset ended the frame; the port disregards the wire until CSN is released. -/
  | disregarded
deriving DecidableEq, Repr

/-- A port record (R158), with the frame in progress and the bytes the latest frame has shifted out on SDO. -/
structure PortRec where
  ready     : Bool
  credits   : Nat
  requests  : List Request
  inService : Option InService
  responses : List Response
  ferr      : Bool
  cause     : DiscardCause
  notices   : List Notice
  overrun   : Bool
  watches   : List LP
  /-- ATTN asserted (driven low). -/
  attn      : Bool
  wire      : WireFrame
  sdo       : List Byte
deriving DecidableEq, Repr

/-- Where the device stands between a device reset and service (R35). -/
inductive Phase where
  /-- RSTN is asserted. -/
  | inReset
  /-- RSTN is released and the initialization sweep runs. -/
  | sweeping
  /-- The sweep has ended. -/
  | running
deriving DecidableEq, Repr

/-- The state of the device, with the queue of commands that wait for it. -/
structure State where
  phase       : Phase
  map         : Vector MapEntry 256
  waits       : List WaitEntry
  frames      : Vector FrameRec 512
  pool        : List PF
  store       : List StoreCell
  lastGranted : Nat
  writeBacks  : List WriteBack
  sessions    : Vector SessionRec 8
  groups      : Vector GroupRec 4
  jobs        : List Job
  relocations : List LP
  log         : List FaultRecord
  nextSeq     : BitVec 16
  cursor      : PF
  /-- Ticks left to the expiry of the scrub period timer; none while the timer is stopped. -/
  timer       : Option Nat
  scrub       : Option ScrubRead
  settings    : Settings
  ports       : Vector PortRec 4
  /-- The model's own: how many free choices among ports have been drawn (assumption 8). -/
  draws       : Nat
  /-- The model's own: the commands that wait, first in first out. -/
  pending     : List Instr
deriving DecidableEq, Repr

/-- Reasons the machine could stop with a fault. There are none: every event of the spec has an effect the spec gives, and
every index of the state is in range by its type. No step answers a fault (safe: nothing is cut short). -/
inductive Fault where
deriving DecidableEq, Repr

/-- Reasons a command could be refused. -/
inductive Refusal where
  /-- A command whose row has no meaning yet, named by its mnemonic; only an arm of exec may answer it (safe: the run ends
  there). No arm does: every row has its meaning. -/
  | notModelled (mnemonic : String)
deriving DecidableEq, Repr

/-! ## The values after a device reset -/

/-- The map entry of LP n after a device reset (R3). -/
def MapEntry.reset (n : LP) : MapEntry :=
  { frame := n.castLE (by decide), version := 0, condition := .normal, claim := none, relocating := false }

/-- The frame record of PF n after a device reset (R19). -/
def FrameRec.reset (n : PF) : FrameRec :=
  if h : n.val < 256 then
    { state := .mapped, owner := some (.page ⟨n.val, h⟩), pins := 0, corrected := 0, retireOnRelease := false }
  else
    { state := .free, owner := none, pins := 0, corrected := 0, retireOnRelease := false }

/-- The session record after a device reset (R37). -/
def SessionRec.reset : SessionRec :=
  { generation := 0, port := none, state := .free, group := none, budget := 0, activity := .idle,
    shadows := [], guards := [], parked := none, waitPage := none }

/-- The group record after a device reset (R110). -/
def GroupRec.reset : GroupRec :=
  { state := .idle, members := [], closer := none }

/-- The settings record after a device reset (R154). -/
def Settings.reset : Settings :=
  { scrubPeriod := 20, retireThreshold := 3, defaultBudget := 500,
    quotas := #v[2, 2, 2, 2], respMask := #v[true, true, true, true],
    noteMask := #v[true, true, true, true], faultNotices := #v[false, false, false, false] }

/-- The port record after a device reset (R158). -/
def PortRec.reset : PortRec :=
  { ready := false, credits := 4, requests := [], inService := none, responses := [], ferr := false,
    cause := .none, notices := [], overrun := false, watches := [], attn := false, wire := .idle, sdo := [] }

/-- A table of n records in which record i is f i. -/
def tableOf {α : Type} (n : Nat) (f : Fin n → α) : Vector α n :=
  ⟨((List.finRange n).map f).toArray, by simp⟩

/-- The free pool after a device reset: PF 256 to PF 511, ascending (R22). -/
def poolReset : List PF :=
  (List.finRange 256).map (Fin.natAdd 256)

/-- The device right after a device reset, RSTN still asserted, no command waiting (R3, R19, R22, R33, R37, R66, R110, R128,
R133, R137, R140, R146, R154, R158). -/
def State.reset : State :=
  { phase := .inReset
    map := tableOf 256 MapEntry.reset
    waits := []
    frames := tableOf 512 FrameRec.reset
    pool := poolReset
    store := []
    lastGranted := 7
    writeBacks := []
    sessions := #v[.reset, .reset, .reset, .reset, .reset, .reset, .reset, .reset]
    groups := #v[.reset, .reset, .reset, .reset]
    jobs := []
    relocations := []
    log := []
    nextSeq := 0
    cursor := 0
    timer := none
    scrub := none
    settings := Settings.reset
    ports := #v[.reset, .reset, .reset, .reset]
    draws := 0
    pending := [] }

end Sys2Proof.Machine
end

