-- ==== Sys2Proof/Machine/CheckCode.lean ====
section
/-! DEFINITION. The Check Unit's code: syndromes, classes and what a word delivers (R126), and how a disturbed bit changes a
word as it stands. -/

namespace Sys2Proof.Machine

/-- The number of bits set in a syndrome. -/
def syndromeWeight (syn : Syndrome) : Nat :=
  (List.finRange 7).countP fun k => syn.getLsb k

/-- The 35 syndromes with exactly three bits set (R126). -/
def threeBitSyndromes : List Syndrome :=
  ((List.range 128).map (BitVec.ofNat 7)).filter fun syn => syndromeWeight syn = 3

/-- n values taken from a list one after another, each at the place the next draw names, none twice. -/
def takeDraws (draw : Nat → Nat) : Nat → List Syndrome → List Syndrome
  | 0, _ => []
  | _ + 1, [] => []
  | n + 1, first :: rest =>
    let at' := draw n % (rest.length + 1)
    (first :: rest).getD at' first :: takeDraws draw n ((first :: rest).eraseIdx at')

/-- The syndromes of the 32 data bits: distinct three-bit values, which ones the spec leaves open (R126; assumption 7). -/
def dataSyndromes : List Syndrome :=
  takeDraws Config.syndromeDraw 32 threeBitSyndromes

/-- The syndrome of a data bit (R126). -/
def dataSyndrome (bit : Fin 32) : Syndrome := dataSyndromes.getD bit 0

/-- The syndrome of a check bit: that bit alone (R126). -/
def checkSyndrome (bit : Fin 7) : Syndrome := 1#7 <<< bit.val

/-- What the Check Unit makes of a word: its class and the data it delivers (R126). -/
inductive Decoded where
  | clean (data : Word)
  | correctable (data : Word)
  | uncorrectable
deriving DecidableEq, Repr

/-- The data bit whose syndrome this is, where there is one. -/
def dataBitOf (syn : Syndrome) : Option (Fin 32) :=
  (List.finRange 32).find? fun bit => dataSyndrome bit = syn

/-- The decode of a word: clean at syndrome 0; correctable at the syndrome of a bit position, a check bit's leaving the data
as read and a data bit's inverting it; uncorrectable at any other (R126). A position's syndrome has one bit or three set. -/
def StoreWord.decode (w : StoreWord) : Decoded :=
  match syndromeWeight w.diff with
  | 0 => .clean w.bits
  | 1 => .correctable w.bits
  | 3 =>
    match dataBitOf w.diff with
    | some bit => .correctable (w.bits ^^^ (1#32 <<< bit.val))
    | none => .uncorrectable
  | _ => .uncorrectable

/-- A word just written: its check bits are those of its data, so it decodes clean (R31). -/
def StoreWord.fresh (data : Word) : StoreWord := { bits := data, diff := 0 }

/-- Zero data with the check bits that belong to zero data (R35). -/
def StoreWord.blank : StoreWord := .fresh 0

/-- The check bits that belong to a word of data: the sum of the syndromes of its set bits (R126; assumption 6). -/
def checkBitsFor (data : Word) : Syndrome :=
  (List.finRange 32).foldl (fun acc bit => if data.getLsb bit then acc ^^^ dataSyndrome bit else acc) 0

/-- The seven check bits a word holds. -/
def StoreWord.checkBits (w : StoreWord) : Syndrome := checkBitsFor w.bits ^^^ w.diff

/-- A word after one of its 39 bits was disturbed: bits 0 to 31 are data bits, 32 to 38 check bits. -/
def StoreWord.disturbBit (w : StoreWord) (bit : Fin 39) : StoreWord :=
  if h : bit.val < 32 then
    { bits := w.bits ^^^ (1#32 <<< bit.val), diff := w.diff ^^^ dataSyndrome ⟨bit.val, h⟩ }
  else
    { w with diff := w.diff ^^^ (1#7 <<< (bit.val - 32)) }

/-- A word after the bits of a mask were disturbed (assumption 5). -/
def StoreWord.disturb (w : StoreWord) (flips : BitVec 39) : StoreWord :=
  (List.finRange 39).foldl (fun acc bit => if flips.getLsb bit then acc.disturbBit bit else acc) w

end Sys2Proof.Machine
end

