-- ==== Sys2Proof/Machine/Store.lean ====
section
/-! DEFINITION. The store: 512 × 64 words, held as a list of cells with rising addresses and no cell for a word of zero
data with the check bits of zero data. -/

namespace Sys2Proof.Machine

/-- The address of a word of a page frame in the store. -/
def storeAddress (frame : PF) (word : WordIx) : Nat := frame.val * 64 + word.val

/-- The word at an address; an address with no cell holds the sweep's zero data (R35; assumption 9). -/
def storeRead : List StoreCell → Nat → StoreWord
  | [], _ => .blank
  | (at', w) :: rest, a => if a = at' then w else storeRead rest a

/-- The store after a word was put at an address, in its one form: a blank word leaves no cell. -/
def storeWrite : List StoreCell → Nat → StoreWord → List StoreCell
  | [], a, w => if w = .blank then [] else [(a, w)]
  | (at', x) :: rest, a, w =>
    if a < at' then (if w = .blank then (at', x) :: rest else (a, w) :: (at', x) :: rest)
    else if a = at' then (if w = .blank then rest else (a, w) :: rest)
    else (at', x) :: storeWrite rest a w

/-- The one form of a store: addresses strictly rising and inside the array, no cell for a blank word. -/
def storeWf (m : List StoreCell) : Bool :=
  decide (m.Pairwise fun x y => x.1 < y.1) && m.all fun c => decide (c.1 < 32768) && decide (c.2 ≠ .blank)

/-- The store after the word at an address was disturbed (assumption 5). -/
def storeDisturb (m : List StoreCell) (a : Nat) (flips : BitVec 39) : List StoreCell :=
  if flips = 0 then m else storeWrite m a ((storeRead m a).disturb flips)

/-- The byte of a word at place n, byte 0 the least significant (R58). -/
def byteOfWord (w : Word) (n : Nat) : Byte := w.extractLsb' (8 * n) 8

/-- The word made of four bytes, byte 0 the least significant (R58). -/
def wordOfBytes (b0 b1 b2 b3 : Byte) : Word := b3 ++ b2 ++ b1 ++ b0

/-- The words of a page that hold at least one byte of a write's span, in ascending order (R58). -/
def PendingWrite.covered (w : PendingWrite) : List WordIx :=
  (List.finRange 64).filter fun k =>
    decide (w.offset < 4 * k.val + 4) && decide (4 * k.val < w.offset + w.data.length)

/-- Whether all four bytes of a word lie in a write's span (R58). -/
def PendingWrite.full (w : PendingWrite) (k : WordIx) : Bool :=
  decide (w.offset ≤ 4 * k.val) && decide (4 * k.val + 4 ≤ w.offset + w.data.length)

/-- The byte at place n of word k after a write's bytes replaced the matching bytes of a word (R32). -/
def PendingWrite.mergeByte (w : PendingWrite) (k : WordIx) (old : Word) (n : Nat) : Byte :=
  if w.offset ≤ 4 * k.val + n ∧ 4 * k.val + n < w.offset + w.data.length then
    w.data.getD (4 * k.val + n - w.offset) 0
  else byteOfWord old n

/-- A word after a write's bytes replaced the matching bytes (R32). -/
def PendingWrite.merge (w : PendingWrite) (k : WordIx) (old : Word) : Word :=
  wordOfBytes (w.mergeByte k old 0) (w.mergeByte k old 1) (w.mergeByte k old 2) (w.mergeByte k old 3)

end Sys2Proof.Machine
end

