-- ==== Sys2Proof/Machine/Ops.lean ====
section
/-! DEFINITION. The named operations over the records: reading and replacing a record, notices, responses, the ATTN line,
the fault log, the pool, pins, releases and allocation. Every meaning is written over these. -/

namespace Sys2Proof.Machine

/-! ## Records -/

/-- The map entry of a logical page. -/
def State.entry (s : State) (page : LP) : MapEntry := s.map[page]

/-- The map entry of a logical page is replaced. -/
def State.setEntry (s : State) (page : LP) (e : MapEntry) : State := { s with map := s.map.set page e }

/-- The record of a page frame. -/
def State.frame (s : State) (pf : PF) : FrameRec := s.frames[pf]

/-- The record of a page frame is replaced. -/
def State.setFrame (s : State) (pf : PF) (f : FrameRec) : State := { s with frames := s.frames.set pf f }

/-- The record of a session slot. -/
def State.session (s : State) (slot : Slot) : SessionRec := s.sessions[slot]

/-- The record of a session slot is replaced. -/
def State.setSession (s : State) (slot : Slot) (r : SessionRec) : State :=
  { s with sessions := s.sessions.set slot r }

/-- The record of a commit group. -/
def State.group (s : State) (g : GroupIx) : GroupRec := s.groups[g]

/-- The record of a commit group is replaced. -/
def State.setGroup (s : State) (g : GroupIx) (r : GroupRec) : State := { s with groups := s.groups.set g r }

/-- The record of a host port. -/
def State.port (s : State) (p : PortId) : PortRec := s.ports[p]

/-- The record of a host port is replaced. -/
def State.setPort (s : State) (p : PortId) (r : PortRec) : State := { s with ports := s.ports.set p r }

/-- The word of a page frame as it stands in the store. -/
def State.word (s : State) (pf : PF) (k : WordIx) : StoreWord := storeRead s.store (storeAddress pf k)

/-- A word of a page frame is written with fresh check bits (R31). -/
def State.writeWord (s : State) (pf : PF) (k : WordIx) (data : Word) : State :=
  { s with store := storeWrite s.store (storeAddress pf k) (.fresh data) }

/-- A word of a page frame after the disturbance it has suffered (assumption 5). -/
def State.disturbWord (s : State) (pf : PF) (k : WordIx) (flips : BitVec 39) : State :=
  { s with store := storeDisturb s.store (storeAddress pf k) flips }

/-! ## Handles (R41) -/

/-- The handle of a slot under a generation: generation times 8 plus the slot (R41). -/
def handleOf (generation : BitVec 4) (slot : Slot) : Handle :=
  0#1 ++ generation ++ BitVec.ofNat 3 slot.val

/-- The handle a slot's session has, or had last if the slot is FREE (R41, R55). -/
def State.handle (s : State) (slot : Slot) : Handle := handleOf (s.session slot).generation slot

/-- The slot a handle names. -/
def slotOfHandle (h : Handle) : Slot := ⟨(h.extractLsb' 0 3).toNat, (h.extractLsb' 0 3).isLt⟩

/-- The session a handle names: bit 7 clear, the slot not FREE, the generation equal (check 1 of R42). -/
def State.named (s : State) (h : Handle) : Option Slot :=
  let slot := slotOfHandle h
  if (s.session slot).state ≠ .free ∧ s.handle slot = h then some slot else none

/-! ## The ATTN line, responses and notices (Chapters 9 and 10) -/

/-- Whether the ATTN line is to be asserted: RESP on and a response held, or NOTE on and a notice held (R157). -/
def attnWanted (settings : Settings) (p : PortId) (r : PortRec) : Bool :=
  (settings.respMask[p] && !r.responses.isEmpty) || (settings.noteMask[p] && !r.notices.isEmpty)

/-- A port's record after its ATTN line was re-evaluated (R157). -/
def PortRec.evalAttn (r : PortRec) (settings : Settings) (p : PortId) : PortRec :=
  { r with attn := attnWanted settings p r }

/-- A notice is queued to a port: it joins at the tail carrying the overrun flag, which is cleared (R146, R147); a full
queue drops it and sets the flag (R147). -/
def queueNotice (p : PortId) (body : NoticeBody) (s : State) : State :=
  let r := s.port p
  if r.notices.length < Config.noticeCapacity then
    s.setPort p (PortRec.evalAttn { r with notices := r.notices ++ [⟨body, r.overrun⟩], overrun := false } s.settings p)
  else
    s.setPort p { r with overrun := true }

/-- The request in service on a port is answered: its response joins the tail of the response queue and it leaves service
(R165, R166). With no request in service there is none to answer. -/
def respond (p : PortId) (answer : Answer) (s : State) : State :=
  let r := s.port p
  match r.inService with
  | none => s
  | some req =>
    s.setPort p (PortRec.evalAttn
      { r with responses := r.responses ++ [⟨req.request.tag, answer⟩], inService := none } s.settings p)

/-- The stage and the session of the request in service on a port are replaced. -/
def setService (p : PortId) (session : Option Slot) (stage : Stage) (s : State) : State :=
  let r := s.port p
  match r.inService with
  | none => s
  | some req => s.setPort p { r with inService := some { req with session := session, stage := stage } }

/-! ## The fault log (8.4) -/

/-- The FAULT notice of a record is queued to every port whose fault-notice setting is on (R135, R153). -/
def faultNotices (seq : BitVec 16) (kind : FaultKind) (s : State) : State :=
  (List.finRange 4).foldl
    (fun t p => if s.settings.faultNotices[p] then queueNotice p (.fault seq kind) t else t) s

/-- A record is appended to the fault log with the next sequence number, the oldest of 16 being replaced, and its FAULT
notices are queued (R133, R135). -/
def appendRecord (kind : FaultKind) (pf : PF) (word : Option WordIx) (syn : Option Syndrome) (context : Option ReadContext)
    (page : Option LP) (handle : Option Handle) (s : State) : State :=
  let seq := s.nextSeq
  let kept := if s.log.length < Config.logCapacity then s.log else s.log.drop (s.log.length + 1 - Config.logCapacity)
  faultNotices seq kind
    { s with
      log := kept ++
        [{ seq := seq, kind := kind, frame := pf, word := word, syndrome := syn, context := context, page := page,
           handle := handle }]
      nextSeq := seq + 1 }

/-- The logical page a record carries for a frame: its owner while MAPPED (R127, R130). -/
def State.recordPage (s : State) (pf : PF) : Option LP :=
  match (s.frame pf).state, (s.frame pf).owner with
  | .mapped, some (.page page) => some page
  | _, _ => none

/-- The handle a record carries for a frame: its owning session's while SHADOW (R127, R130). -/
def State.recordHandle (s : State) (pf : PF) : Option Handle :=
  match (s.frame pf).state, (s.frame pf).owner with
  | .shadow, some (.session slot) => some (s.handle slot)
  | _, _ => none

/-! ## Frames, pins and the pool (Chapter 2) -/

/-- A frame enters RETIRED, and a RETIRED record is handed to the fault log (R30). -/
def retireFrame (pf : PF) (s : State) : State :=
  appendRecord .retired pf none none none (s.recordPage pf) (s.recordHandle pf)
    (s.setFrame pf { s.frame pf with state := .retired, owner := none })

/-- A frame enters FREE at the pool tail (R22). -/
def freeFrame (pf : PF) (s : State) : State :=
  { s.setFrame pf { s.frame pf with state := .free, owner := none } with pool := s.pool ++ [pf] }

/-- Whether a release may come from a state: MAPPED, SHADOW or MOVING (R24). -/
def FrameState.releasable : FrameState → Bool
  | .mapped => true
  | .shadow => true
  | .moving => true
  | .free => false
  | .held => false
  | .retired => false

/-- A frame is released from MAPPED, SHADOW or MOVING: HELD while pinned, else RETIRED if flagged, else FREE at the pool tail
(R21, R24). -/
def releaseFrame (pf : PF) (s : State) : State :=
  if (s.frame pf).state.releasable then
    if 0 < (s.frame pf).pins then s.setFrame pf { s.frame pf with state := .held, owner := none }
    else if (s.frame pf).retireOnRelease then retireFrame pf s
    else freeFrame pf s
  else s

/-- A SHADOW or MOVING frame becomes MAPPED, owned by a page (R21). -/
def mapFrame (pf : PF) (page : LP) (s : State) : State :=
  if (s.frame pf).state = .shadow ∨ (s.frame pf).state = .moving then
    s.setFrame pf { s.frame pf with state := .mapped, owner := some (.page page) }
  else s

/-- A pin is taken on a frame (R25). -/
def pinFrame (pf : PF) (s : State) : State :=
  s.setFrame pf { s.frame pf with pins := (s.frame pf).pins + 1 }

/-- A pin is released; the last pin of a HELD frame lets it leave HELD, to RETIRED if flagged and to FREE at the pool tail
otherwise (R26). -/
def unpinFrame (pf : PF) (s : State) : State :=
  let t := s.setFrame pf { s.frame pf with pins := (s.frame pf).pins - 1 }
  if (t.frame pf).state = .held ∧ (t.frame pf).pins = 0 then
    if (t.frame pf).retireOnRelease then retireFrame pf t else freeFrame pf t
  else t

/-- Pins are released one after another, in the order of the list (R11). -/
def unpinAll (pfs : List PF) (s : State) : State := pfs.foldl (fun t pf => unpinFrame pf t) s

/-- The frame at the pool head is allocated to a use; none when the pool is empty (R23). -/
def allocate (state : FrameState) (owner : Owner) (s : State) : Option (PF × State) :=
  match s.pool with
  | [] => none
  | pf :: rest =>
    some (pf, { s.setFrame pf { s.frame pf with state := state, owner := some owner } with pool := rest })

/-- A frame is marked for withdrawal at its next release or last unpin (R29). -/
def flagFrame (pf : PF) (s : State) : State := s.setFrame pf { s.frame pf with retireOnRelease := true }

/-! ## Sessions and jobs -/

/-- A session record is changed in place. -/
def modifySession (slot : Slot) (f : SessionRec → SessionRec) (s : State) : State :=
  s.setSession slot (f (s.session slot))

/-- The session a job serves, where it is a session job (R66). -/
def Job.session? (j : Job) : Option Slot :=
  match j.kind with
  | .copy slot _ _ _ => some slot
  | .zero slot _ _ => some slot
  | .relocate _ => none

/-- The frame a job reads, where it reads one (R66). -/
def Job.source? (j : Job) : Option PF :=
  match j.kind with
  | .copy _ source _ _ => some source
  | .zero _ _ _ => none
  | .relocate source => some source

/-- The write a session job places when its fill is done (R66). -/
def Job.write (j : Job) : PendingWrite :=
  match j.kind with
  | .copy _ _ write _ => write
  | .zero _ write _ => write
  | .relocate _ => { offset := 0, data := [] }

/-- Whether a job is a RELOCATE job. -/
def Job.isRelocate (j : Job) : Bool :=
  match j.kind with
  | .copy _ _ _ _ => false
  | .zero _ _ _ => false
  | .relocate _ => true

/-- Whether the copy queue holds a session job of a slot (R39). -/
def State.hasJob (s : State) (slot : Slot) : Bool := s.jobs.any fun j => j.session? = some slot

/-- The first access of a job of a kind (R68, R69, R142). -/
def JobKind.start : JobKind → Progress
  | .copy _ _ _ _ => .fillRead 0
  | .zero _ _ _ => .fillWrite 0 0
  | .relocate _ => .fillRead 0

/-- A job is appended to the copy queue (R66, R67). -/
def queueJob (kind : JobKind) (page : LP) (target : PF) (s : State) : State :=
  { s with jobs := s.jobs ++ [{ kind := kind, page := page, target := target, progress := kind.start }] }

/-- A session's job leaves the copy queue, queued or active, and a COPY's source pin is released (R71). -/
def cancelSessionJob (slot : Slot) (s : State) : State :=
  match s.jobs.find? fun j => j.session? = some slot with
  | none => s
  | some job =>
    let t := { s with jobs := s.jobs.eraseP fun j => j.session? = some slot }
    match job.source? with
    | none => t
    | some source => unpinFrame source t

/-- The relocation of a page is abandoned: its job leaves the queue, the job's pin on the source is released, the target is
released, the page's relocating flag is cleared (R103, R144). -/
def abandonRelocation (page : LP) (s : State) : State :=
  let t :=
    match s.jobs.find? fun j => j.isRelocate && decide (j.page = page) with
    | none => s
    | some job =>
      let t := { s with jobs := s.jobs.eraseP fun j => j.isRelocate && decide (j.page = page) }
      let t := match job.source? with
        | none => t
        | some source => unpinFrame source t
      releaseFrame job.target t
  t.setEntry page { t.entry page with relocating := false }

/-- A page leaves the relocation list, the pages behind it closing up (R140). -/
def unlistRelocation (page : LP) (s : State) : State :=
  { s with relocations := s.relocations.filter (· ≠ page) }

/-- The conditions under which the relocation of the list's head page is started (R141): the page, where they hold. -/
def relocationDue (s : State) : Option LP :=
  match s.relocations with
  | [] => none
  | page :: _ =>
    if (s.jobs.any Job.isRelocate) = true ∨ s.pool = [] ∨
        (s.scrub.map ScrubRead.frame) = some (s.entry page).frame then none
    else some page

/-- The start of a relocation, where its conditions hold: the page leaves the list, a MOVING target is allocated, the page's
relocating flag is set, a RELOCATE job is queued and its source pinned (R141). -/
def startRelocation (s : State) : State :=
  match relocationDue s with
  | none => s
  | some page =>
    match allocate .moving (.page page) s with
    | none => s
    | some (target, t) =>
      let source := (s.entry page).frame
      let t := { t with relocations := t.relocations.tail }
      let t := t.setEntry page { t.entry page with relocating := true }
      pinFrame source (queueJob (.relocate source) page target t)

end Sys2Proof.Machine
end

