-- ==== Sys2Proof/Machine/Claims.lean ====
section
/-! DEFINITION. Claims: what a first write takes, the grant of a released claim to the oldest waiter (Chapters 4 and 5), and
the deadlock check. -/

namespace Sys2Proof.Machine

/-- A notice is queued to the port of a slot's session; a slot with no port has none to tell. -/
def noticeToOwner (slot : Slot) (body : NoticeBody) (s : State) : State :=
  match (s.session slot).port with
  | none => s
  | some p => queueNotice p body s

/-- What a first write and a grant take together: the page's claim, the frame at the pool head as shadow, the shadow entry
(zeroed for a POISONED page), the COPY job with its source pinned or the ZERO job, and the activity COPYING (R65, R85). None
when the pool is empty, and then nothing changes (R64, R87). -/
def takeClaim (slot : Slot) (page : LP) (write : PendingWrite) (origin : Origin) (s : State) : Option State :=
  match allocate .shadow (.session slot) s with
  | none => none
  | some (pf, t) =>
    let source := (s.entry page).frame
    let zeroed := decide ((s.entry page).condition = .poisoned)
    let t := t.setEntry page { t.entry page with claim := some slot }
    let t := modifySession slot
      (fun r => { r with shadows := r.shadows ++ [⟨page, pf, zeroed⟩], activity := .copying }) t
    if zeroed then some (queueJob (.zero slot write origin) page pf t)
    else some (pinFrame source (queueJob (.copy slot source write origin) page pf t))

/-- The write a parked write becomes at its grant: its offset in the page and its data (R80, R85). -/
def ParkedWrite.pending (w : ParkedWrite) : PendingWrite :=
  { offset := w.address.toNat % 256, data := w.data }

/-- The pending write of a waiting session. -/
def State.parkedWrite (s : State) (slot : Slot) : PendingWrite :=
  match (s.session slot).parked with
  | some w => w.pending
  | none => { offset := 0, data := [] }

/-- A session's wait ends: its entry leaves the claim wait list, its parked write and wait page are removed and it is IDLE
(R85, R87, R89). -/
def endWait (slot : Slot) (s : State) : State :=
  modifySession slot (fun r => { r with parked := none, waitPage := none, activity := .idle })
    { s with waits := s.waits.filter fun e => e.slot ≠ slot }

/-- The oldest waiter of a page (R84). -/
def oldestWaiter (page : LP) (s : State) : Option Slot :=
  (s.waits.find? fun e => e.page = page).map WaitEntry.slot

/-- A released claim is offered down a page's waiters: the oldest takes it, or fails with WRITE_FAILED(NO_PAGE) at an empty
pool and the next is offered it, until one takes it or none remain (R84, R85, R87). -/
def offerDown (page : LP) : Nat → State → State
  | 0, s => s
  | n + 1, s =>
    match oldestWaiter page s with
    | none => s
    | some slot =>
      match takeClaim slot page (s.parkedWrite slot) .granted (endWait slot s) with
      | some t => t
      | none =>
        offerDown page n (noticeToOwner slot (.writeFailed (s.handle slot) .noPage) (endWait slot s))

/-- The offer of a released page to its waiters (R84). -/
def offerClaim (page : LP) (s : State) : State := offerDown page s.waits.length s

/-- Whether the chain of waits from a session reaches the requester (R81). A chain has at most 8 sessions. -/
def chainReaches (s : State) (requester : Slot) : Nat → Slot → Bool
  | 0, _ => false
  | n + 1, reached =>
    if reached = requester then true
    else if (s.session reached).activity = .parked then
      match (s.session reached).waitPage with
      | none => false
      | some page =>
        match (s.entry page).claim with
        | none => false
        | some holder => chainReaches s requester n holder
    else false

/-- The deadlock check of a write that would wait for a page's holder: true when it fails (R81). -/
def wouldDeadlock (s : State) (requester holder : Slot) : Bool := chainReaches s requester 9 holder

end Sys2Proof.Machine
end

