-- ==== Sys2Proof/Machine/Abort.lean ====
section
/-! DEFINITION. The abort of a session, of a commit group with it, and of a port's sessions (3.5, 7.5). -/

namespace Sys2Proof.Machine

/-- Whether a request is an ABORT. -/
def isAbortOp : RequestOp → Bool
  | .abort _ => true
  | .openSession _ _ | .guard _ _ _ | .read _ _ _ | .write _ _ _ _ | .commit _ | .close _ | .pageInfo _ | .poolInfo
  | .sessInfo _ | .watch _ | .unwatch _ | .setConfig _ | .getConfig | .logRead _ => false

/-- The request in service on a port, where it names a session and is no ABORT (R50). -/
def State.serviceNaming (s : State) (p : PortId) (slot : Slot) : Option InService :=
  (s.port p).inService.filter fun r => r.session = some slot && !isAbortOp r.request.op

/-- A request in service stops using the store: a READ's pins are released in span order, a WRITE's placement ends (R34, R48
step 1). It still awaits its response. -/
def stopService (p : PortId) (r : InService) (s : State) : State :=
  match r.stage with
  | .atOnce => s
  | .reading pins _ _ => unpinAll pins (setService p r.session .atOnce s)
  | .placing _ _ _ _ => setService p r.session .atOnce s
  | .copying => setService p r.session .atOnce s

/-- Step 1 of R48: a request naming the session in service on its port is cancelled. -/
def abortService (slot : Slot) (s : State) : State :=
  match (s.session slot).port with
  | none => s
  | some p =>
    match s.serviceNaming p slot with
    | none => s
    | some r => stopService p r s

/-- Step 3 of R48: a PARKED session leaves the claim wait list, with no grant and no WRITE_FAILED. -/
def abortWait (slot : Slot) (s : State) : State :=
  if (s.session slot).activity = .parked then endWait slot s else s

/-- Step 4 of R48 for one shadow entry: the claim is cleared and the frame released. -/
def dropShadow (e : ShadowEntry) (s : State) : State :=
  releaseFrame e.frame (s.setEntry e.page { s.entry e.page with claim := none })

/-- The report of an abort to the owning port, by the first way of R50 that fits. -/
def abortReport (slot : Slot) (reason : AbortReason) (s : State) : State :=
  match (s.session slot).port with
  | none => s
  | some p =>
    match reason with
    | .portReset => s
    | .requested => respond p .done s
    | reason =>
      match s.serviceNaming p slot with
      | some _ => respond p (.aborted reason) s
      | none => queueNotice p (.sessionAborted (s.handle slot) reason) s

/-- Steps 1 to 7 of R48: the session's hold on the device is released and the abort reported. -/
def abortHold (slot : Slot) (reason : AbortReason) (s : State) : State :=
  let shadows := (s.session slot).shadows
  let s := abortService slot s
  let s := cancelSessionJob slot s
  let s := abortWait slot s
  let s := shadows.foldl (fun t e => dropShadow e t) s
  let s := shadows.foldl (fun t e => offerClaim e.page t) s
  let s := modifySession slot (fun r => { r with guards := [] }) s
  abortReport slot reason s

/-- A session's record takes its FREE values; its generation is kept (R38). -/
def freeSession (slot : Slot) (s : State) : State :=
  modifySession slot (fun r => { SessionRec.reset with generation := r.generation }) s

/-- A member of an aborted group is aborted with reason GROUP; a slot already FREE holds no session (R47, R51). -/
def abortMember (slot : Slot) (s : State) : State :=
  if (s.session slot).state = .free then s else freeSession slot (abortHold slot .group s)

/-- Step 8 of R48: the other members of an aborted member's group are aborted in join order, the group becomes IDLE with an
empty member list and, when it was CLOSING, its GROUP_RESULT is queued to the closer port (R51, R120, R121). -/
def abortGroup (g : GroupIx) (first : Slot) (reason : AbortReason) (s : State) : State :=
  let was := s.group g
  let s := (was.members.filter (· ≠ first)).foldl (fun t m => abortMember m t) s
  let s := s.setGroup g GroupRec.reset
  match was.state, was.closer with
  | .closing, some p => queueNotice p (.groupResult g (.aborted (s.handle first) reason)) s
  | _, _ => s

/-- The abort of a session, one event: R48, with the abort of its group (R51). A slot already FREE holds no session, and
nothing is done (R47). -/
def abortSession (slot : Slot) (reason : AbortReason) (s : State) : State :=
  if (s.session slot).state = .free then s
  else
    let t := abortHold slot reason s
    let t :=
      match (s.session slot).group with
      | none => t
      | some g => abortGroup g slot reason t
    freeSession slot t

/-- The sessions whose budget has reached 0 are aborted with reason EXPIRED, in ascending slot order; one that an earlier
expiry's group abort has freed is passed over (R46). -/
def expireSessions (s : State) : State :=
  (List.finRange 8).foldl
    (fun t slot =>
      if (t.session slot).state ≠ .free ∧ (t.session slot).budget = 0 then abortSession slot .expired t else t) s

/-- The sessions of a port are aborted with reason PORT_RESET, in ascending slot order (R54). -/
def abortPort (p : PortId) (s : State) : State :=
  (List.finRange 8).foldl
    (fun t slot => if (t.session slot).port = some p then abortSession slot .portReset t else t) s

end Sys2Proof.Machine
end

