-- ==== Sys2Proof/Machine/Apply.lean ====
section
/-! DEFINITION. Guard checks, the apply of sessions and the resolution of a commit group (Chapters 6 and 7). -/

namespace Sys2Proof.Machine

/-- The step of a version at an apply: 65535 is followed by 1 (R5). -/
def nextVersion (v : BitVec 16) : BitVec 16 := if v = 0xFFFF#16 then 1 else v + 1

/-- The guard check of a session: the page of the first entry, in list order, that fails; none when all hold (R95, R96). -/
def guardFailure (s : State) (slot : Slot) : Option LP :=
  ((s.session slot).guards.find? fun g => (s.entry g.page).version ≠ g.version).map GuardEntry.page

/-- The group guard check: the first member in join order with a failing entry, and that entry's page (R116). -/
def groupGuardFailure (s : State) (members : List Slot) : Option (Slot × LP) :=
  members.findSome? fun m => (guardFailure s m).map fun page => (m, page)

/-- The switch of one shadow entry into the map, with the page's relocation abandoned or unlisted first and the old frame
released last (R102, R103, R104). -/
def switchEntry (e : ShadowEntry) (s : State) : State :=
  let s := if (s.entry e.page).relocating then abandonRelocation e.page s else unlistRelocation e.page s
  let old := (s.entry e.page).frame
  let s := s.setEntry e.page
    { frame := e.frame, version := nextVersion (s.entry e.page).version, condition := .normal, claim := none,
      relocating := false }
  releaseFrame old (mapFrame e.frame e.page s)

/-- The WATCH_CHANGED notices of an applied page, to every port whose watch list holds it (R106). -/
def notifyWatchers (page : LP) (handle : Handle) (s : State) : State :=
  (List.finRange 4).foldl
    (fun t p =>
      if (t.port p).watches.contains page then
        queueNotice p (.watchChanged page (t.entry page).version handle) t
      else t) s

/-- The offer phase for one applied page: its claim is offered, then its watchers are told (R105, R106). -/
def offerApplied (handle : Handle) (e : ShadowEntry) (s : State) : State :=
  notifyWatchers e.page handle (offerClaim e.page s)

/-- The switch and offer phases of an apply, over the sessions in their order and each session's shadow entries in theirs
(R101). -/
def applyPages (members : List Slot) (s : State) : State :=
  let work := members.flatMap fun m => (s.session m).shadows.map fun e => (s.handle m, e)
  let t := work.foldl (fun t w => switchEntry w.2 t) s
  work.foldl (fun t w => offerApplied w.1 w.2 t) t

/-- The end phase for one applied session: it becomes FREE. A READ naming it that is in service goes on, naming no session
any more (R16, R107). -/
def endApplied (slot : Slot) (s : State) : State :=
  let t :=
    match (s.session slot).port with
    | none => s
    | some p =>
      match s.serviceNaming p slot with
      | none => s
      | some r => setService p none r.stage s
  freeSession slot t

/-- The end phase for one member of a group: it becomes FREE and its GROUP_APPLIED is queued to its port (R119). -/
def endMember (slot : Slot) (s : State) : State :=
  let port := (s.session slot).port
  let pages := (s.session slot).shadows.length
  let t := endApplied slot s
  match port with
  | none => t
  | some p => queueNotice p (.groupApplied (t.handle slot) pages) t

/-- The resolution of a group whose members are all READY: its guard check, then its apply or its abort. `close` is the port
whose CLOSE in service resolves it; without one, the closer port learns the outcome by GROUP_RESULT (R114, R116 to R121). -/
def resolveGroup (g : GroupIx) (close : Option PortId) (s : State) : State :=
  let was := s.group g
  match groupGuardFailure s was.members with
  | some (slot, page) =>
    let t := abortSession slot (.guard page) s
    match close with
    | some p => respond p (.aborted (.guard page)) t
    | none => t
  | none =>
    let pages := (was.members.map fun m => (s.session m).shadows.length).sum
    let t := applyPages was.members s
    let t := was.members.foldl (fun t m => endMember m t) t
    let t := t.setGroup g GroupRec.reset
    match close, was.closer with
    | some p, _ => respond p (.applied was.members.length pages) t
    | none, some p => queueNotice p (.groupResult g (.applied was.members.length pages)) t
    | none, none => t

/-- Whether every member of a group is READY. -/
def State.allReady (s : State) (g : GroupIx) : Bool :=
  (s.group g).members.all fun m => (s.session m).state = .ready

end Sys2Proof.Machine
end

