-- ==== Sys2Proof/Machine/Requests.lean ====
section
/-! DEFINITION. What each request does when it is taken into service: its checks in the order its rule gives, and its
effect. The request stands in service on its port while it is served. -/

namespace Sys2Proof.Machine

/-- The common handle checks of R42: STALE, NOT_OWNER and, for a request that needs an OPEN session, NOT_OPEN. -/
def checkHandle (p : PortId) (handle : Handle) (mustBeOpen : Bool) (s : State) : Except Answer Slot :=
  match s.named handle with
  | none => .error .stale
  | some slot =>
    if (s.session slot).port ≠ some p then .error .notOwner
    else if mustBeOpen && decide ((s.session slot).state ≠ .opened) then .error .notOpen
    else .ok slot

/-- The group a tag byte names: none for 0, group index tag − 1 for 1 to 4. -/
def groupOfTag (tag : Byte) : Option GroupIx :=
  if h : 1 ≤ tag.toNat ∧ tag.toNat ≤ 4 then some ⟨tag.toNat - 1, by omega⟩ else none

/-- The number of non-FREE sessions of a port (R43). -/
def State.heldBy (s : State) (p : PortId) : Nat :=
  (List.finRange 8).countP fun slot => decide ((s.session slot).state ≠ .free) && decide ((s.session slot).port = some p)

/-- The lowest-numbered FREE slot (R44). -/
def State.lowestFree (s : State) : Option Slot :=
  (List.finRange 8).find? fun slot => (s.session slot).state = .free

/-- A slot joins a group at the tail; an IDLE group becomes GATHERING (R112). -/
def joinGroup (g : GroupIx) (slot : Slot) (s : State) : State :=
  s.setGroup g
    { s.group g with
      members := (s.group g).members ++ [slot]
      state := if (s.group g).state = .idle then .gathering else (s.group g).state }

/-- OPEN (R44). -/
def serveOpen (p : PortId) (tag : Byte) (budget : BitVec 16) (s : State) : State :=
  if 4 < tag.toNat ∨ 4000 < budget.toNat then respond p .badValue s
  else if s.settings.quotas[p] ≤ s.heldBy p then respond p .quota s
  else
    match s.lowestFree with
    | none => respond p .noSession s
    | some slot =>
      let g := groupOfTag tag
      if (g.map fun g => (s.group g).state) = some .closing then respond p .groupClosed s
      else
        let generation := (s.session slot).generation + 1
        let t := s.setSession slot
          { SessionRec.reset with
            generation := generation
            port := some p
            state := .opened
            group := g
            budget := if budget = 0 then s.settings.defaultBudget else budget.toNat }
        let t := match g with
          | none => t
          | some g => joinGroup g slot t
        respond p (.openedOk (handleOf generation slot)) t

/-- ABORT (R53). -/
def serveAbort (p : PortId) (handle : Handle) (s : State) : State :=
  match checkHandle p handle false s with
  | .error a => respond p a s
  | .ok slot => startRelocation (abortSession slot .requested (setService p (some slot) .atOnce s))

/-- A guard list with a page's expected version replaced in place, or appended at the tail (R94). -/
def putGuard (page : LP) (version : BitVec 16) (guards : List GuardEntry) : List GuardEntry :=
  if guards.any fun g => g.page = page then
    guards.map fun g => if g.page = page then { g with version := version } else g
  else guards ++ [⟨page, version⟩]

/-- GUARD (R94). -/
def serveGuard (p : PortId) (handle : Handle) (page : LP) (version : BitVec 16) (s : State) : State :=
  match checkHandle p handle true s with
  | .error a => respond p a s
  | .ok slot =>
    let guards := (s.session slot).guards
    if (guards.any fun g => g.page = page) = true ∨ guards.length < Config.guardCapacity then
      respond p .done (modifySession slot (fun r => { r with guards := putGuard page version guards }) s)
    else respond p .limit s

/-- The pages a READ span covers, with the first and last offset of the span in each (R1). -/
def spanPieces (address length : Nat) : List (LP × Nat × Nat) :=
  let page := address / 256
  let off := address % 256
  if off + length ≤ 256 then [(Fin.ofNat 256 page, off, off + length - 1)]
  else [(Fin.ofNat 256 page, off, 255), (Fin.ofNat 256 (page + 1), 0, off + length - 257)]

/-- The session's shadow frame of a page, where it holds a filled one: no job of the session for the page is queued or active
(R10). -/
def State.filledShadow (s : State) (slot : Slot) (page : LP) : Option PF :=
  if s.jobs.any fun j => decide (j.session? = some slot) && decide (j.page = page) then none
  else ((s.session slot).shadows.find? fun e => e.page = page).map ShadowEntry.frame

/-- The source of a covered page at a capture, and whether it is the page's map entry (R10). -/
def State.sourceOf (s : State) (session : Option Slot) (page : LP) : PF × Bool :=
  match session.bind fun slot => s.filledShadow slot page with
  | some pf => (pf, false)
  | none => ((s.entry page).frame, true)

/-- The word accesses of one covered page's part of a READ, in address order (R13). -/
def pieceAccesses (page : LP) (pf : PF) (lo hi : Nat) : List ReadAccess :=
  ((List.finRange 64).filter fun k => decide (lo / 4 ≤ k.val) && decide (k.val ≤ hi / 4)).map fun k =>
    { page := page, frame := pf, word := k,
      first := max lo (4 * k.val) - 4 * k.val, last := min hi (4 * k.val + 3) - 4 * k.val }

/-- The capture of a READ whose checks 1 to 3 have passed: one source for each covered page at one instant, a refusal at the
first POISONED page taken from the map, else every source pinned and the data copy started (R9 to R12). A refused capture's
pins are taken and released in its own event, which leaves the frames as they were. -/
def captureRead (p : PortId) (session : Option Slot) (address length : Nat) (s : State) : State :=
  let pieces := spanPieces address length
  match pieces.find? fun x => (s.sourceOf session x.1).2 && decide ((s.entry x.1).condition = .poisoned) with
  | some x => respond p (.poisoned x.1) s
  | none =>
    let pins := pieces.map fun x => (s.sourceOf session x.1).1
    let todo := pieces.flatMap fun x => pieceAccesses x.1 (s.sourceOf session x.1).1 x.2.1 x.2.2
    setService p session (.reading pins todo []) (pins.foldl (fun t pf => pinFrame pf t) s)

/-- READ (R17). -/
def serveRead (p : PortId) (handle : Handle) (address length : BitVec 16) (s : State) : State :=
  match if handle = 0x80#8 then .ok none else (checkHandle p handle false s).map some with
  | .error a => respond p a s
  | .ok session =>
    if length = 0 ∨ 256 < length.toNat ∨ 65536 < address.toNat + length.toNat then respond p .bounds s
    else captureRead p session address.toNat length.toNat s

/-- A first write, the page not in the session's shadow list: checks 6 to 8 of R57 in one event (R62 to R65), and with the
wait flag set the deadlock check and the park (R81, R82). -/
def firstWrite (p : PortId) (slot : Slot) (page : LP) (address : BitVec 16) (wait : Bool) (data : List Byte) (s : State) :
    State :=
  if Config.shadowCapacity ≤ (s.session slot).shadows.length then respond p .limit s
  else
    match (s.entry page).claim with
    | some holder =>
      if !wait then respond p (.conflict (s.handle holder)) s
      else if wouldDeadlock s slot holder then respond p .deadlock s
      else
        respond p .waiting
          (modifySession slot
            (fun r => { r with parked := some ⟨address, data⟩, waitPage := some page, activity := .parked })
            { s with waits := s.waits ++ [⟨slot, page⟩] })
    | none =>
      match takeClaim slot page { offset := address.toNat % 256, data := data } .inService s with
      | none => respond p .noPage s
      | some t => setService p (some slot) .copying t

/-- WRITE (R57, R59, R60). -/
def serveWrite (p : PortId) (handle : Handle) (address : BitVec 16) (flags : Byte) (data : List Byte) (s : State) : State :=
  match checkHandle p handle true s with
  | .error a => respond p a s
  | .ok slot =>
    let off := address.toNat % 256
    let page : LP := Fin.ofNat 256 (address.toNat / 256)
    if data.length = 0 ∨ Config.writeMax < data.length ∨ 256 < off + data.length then respond p .bounds s
    else if (s.session slot).activity ≠ .idle then respond p .busy s
    else
      match (s.session slot).shadows.find? fun e => e.page = page with
      | some e =>
        let write : PendingWrite := { offset := off, data := data }
        setService p (some slot) (.placing e.frame write write.covered e.zeroed) s
      | none => firstWrite p slot page address (flags.getLsb 0) data s

/-- COMMIT (R97, R98, R99, R100, R113, R117). -/
def serveCommit (p : PortId) (handle : Handle) (s : State) : State :=
  match checkHandle p handle true s with
  | .error a => respond p a s
  | .ok slot =>
    if (s.session slot).activity ≠ .idle then respond p .busy s
    else
      match (s.session slot).group with
      | none =>
        let s := setService p (some slot) .atOnce s
        match guardFailure s slot with
        | some page => startRelocation (abortSession slot (.guard page) s)
        | none =>
          let pages := (s.session slot).shadows.length
          startRelocation (respond p (.committed pages) (endApplied slot (applyPages [slot] s)))
      | some g =>
        let s := respond p .ready (modifySession slot (fun r => { r with state := .ready }) s)
        if (s.group g).state = .closing ∧ s.allReady g = true then startRelocation (resolveGroup g none s) else s

/-- CLOSE (R114). -/
def serveClose (p : PortId) (tag : Byte) (s : State) : State :=
  match groupOfTag tag with
  | none => respond p .badValue s
  | some g =>
    match (s.group g).state with
    | .idle => respond p .groupEmpty s
    | .closing => respond p .already s
    | .gathering =>
      if s.allReady g then startRelocation (resolveGroup g (some p) s)
      else respond p .closing (s.setGroup g { s.group g with state := .closing, closer := some p })

/-- What PAGEINFO reports of a page (R18). -/
def pageReport (s : State) (page : LP) : PageReport :=
  let e := s.entry page
  { page := page, frame := e.frame, version := e.version, condition := e.condition,
    claim := e.claim.map s.handle, relocating := e.relocating,
    parked := s.waits.countP fun w => w.page = page }

/-- PAGEINFO (R18). -/
def servePageInfo (p : PortId) (page : LP) (s : State) : State := respond p (.pageInfo (pageReport s page)) s

/-- The number of frames in a state. -/
def State.frameCount (s : State) (st : FrameState) : Nat := s.frames.toList.countP fun f => f.state = st

/-- What POOLINFO reports (R36). -/
def poolReport (s : State) : PoolReport :=
  { free := s.frameCount .free, mapped := s.frameCount .mapped, shadow := s.frameCount .shadow,
    held := s.frameCount .held, moving := s.frameCount .moving, retired := s.frameCount .retired,
    poolLength := s.pool.length, relocationLength := s.relocations.length }

/-- POOLINFO (R36). -/
def servePoolInfo (p : PortId) (s : State) : State := respond p (.poolInfo (poolReport s)) s

/-- What SESSINFO reports of a slot (R55). -/
def sessionReport (s : State) (slot : Slot) : SessionReport :=
  let r := s.session slot
  { handle := s.handle slot, state := r.state, port := r.port, group := r.group, budget := r.budget,
    activity := r.activity, shadows := r.shadows.length, zeroed := r.shadows.countP ShadowEntry.zeroed,
    job := s.hasJob slot, guards := r.guards.length, waitPage := r.waitPage }

/-- SESSINFO (R55). -/
def serveSessInfo (p : PortId) (slot : Byte) (s : State) : State :=
  if h : slot.toNat < 8 then respond p (.sessInfo (sessionReport s ⟨slot.toNat, h⟩)) s
  else respond p .badValue s

/-- A port's watch list is replaced. -/
def setWatches (p : PortId) (watches : List LP) (s : State) : State :=
  s.setPort p { s.port p with watches := watches }

/-- WATCH (R151). -/
def serveWatch (p : PortId) (page : LP) (s : State) : State :=
  let watches := (s.port p).watches
  if watches.contains page then respond p (.watched watches.length) s
  else if watches.length < Config.watchCapacity then
    respond p (.watched (watches.length + 1)) (setWatches p (watches ++ [page]) s)
  else respond p .limit s

/-- UNWATCH (R152). -/
def serveUnwatch (p : PortId) (page : LP) (s : State) : State :=
  let watches := (s.port p).watches
  if watches.contains page then
    respond p (.watched (watches.erase page).length) (setWatches p (watches.erase page) s)
  else respond p .notWatched s

/-- Whether every checked field of a settings record is in its range (R155, R180). -/
def configInRange (r : ConfigRecord) : Bool :=
  decide (r.scrubPeriod.toNat ≤ 1000) && decide (1 ≤ r.retireThreshold.toNat) && decide (r.retireThreshold.toNat ≤ 15) &&
    decide (1 ≤ r.defaultBudget.toNat) && decide (r.defaultBudget.toNat ≤ 4000) &&
    r.quotas.toList.all fun q => decide (q.toNat ≤ 8)

/-- The settings a record stands for; bits 7 to 3 of each port byte are disregarded (R179, R180). -/
def configSettings (r : ConfigRecord) : Settings :=
  { scrubPeriod := r.scrubPeriod.toNat, retireThreshold := r.retireThreshold.toNat,
    defaultBudget := r.defaultBudget.toNat, quotas := r.quotas.map BitVec.toNat,
    respMask := r.portBytes.map fun b => b.getLsb 0, noteMask := r.portBytes.map fun b => b.getLsb 1,
    faultNotices := r.portBytes.map fun b => b.getLsb 2 }

/-- The scrub period timer after a change of period: stopped at 0, restarted or started at any other, unless a scrub read is
in flight, whose end restarts it (R137, R155). -/
def retime (period : Nat) (scrub : Option ScrubRead) : Option Nat :=
  if period = 0 then none
  else match scrub with
    | none => some period
    | some _ => none

/-- The ATTN line of every port is re-evaluated (R155, R157). -/
def evalAllAttn (s : State) : State :=
  (List.finRange 4).foldl (fun t p => t.setPort p ((t.port p).evalAttn t.settings p)) s

/-- SETCONFIG (R155). A record that leaves the scrub period as it is leaves the timer as it is (assumption 14). -/
def serveSetConfig (p : PortId) (record : ConfigRecord) (s : State) : State :=
  if !configInRange record then respond p .badValue s
  else if (List.finRange 8).any fun slot => (s.session slot).state ≠ .free then respond p .busy s
  else
    let settings := configSettings record
    let timer := if settings.scrubPeriod = s.settings.scrubPeriod then s.timer else retime settings.scrubPeriod s.scrub
    respond p .done (evalAllAttn { s with settings := settings, timer := timer })

/-- GETCONFIG (R156). -/
def serveGetConfig (p : PortId) (s : State) : State := respond p (.config s.settings) s

/-- The oldest held record that qualifies for a LOGREAD: its sequence number equals the given one or follows it by fewer than
32768 steps (R136). -/
def qualifying (s : State) (seq : BitVec 16) : Option FaultRecord :=
  s.log.find? fun r => decide ((r.seq - seq).toNat < 32768)

/-- LOGREAD (R136). -/
def serveLogRead (p : PortId) (seq : BitVec 16) (s : State) : State :=
  match qualifying s seq with
  | some r => respond p (.logOk r s.log.length s.nextSeq) s
  | none => respond p (.logEmpty s.nextSeq) s

/-- A request in service on a port is served by the block that owns it (R164). -/
def serve (p : PortId) (op : RequestOp) (s : State) : State :=
  match op with
  | .openSession group budget => serveOpen p group budget s
  | .abort handle => serveAbort p handle s
  | .guard handle page version => serveGuard p handle page version s
  | .read handle address length => serveRead p handle address length s
  | .write handle address flags data => serveWrite p handle address flags data s
  | .commit handle => serveCommit p handle s
  | .close group => serveClose p group s
  | .pageInfo page => servePageInfo p page s
  | .poolInfo => servePoolInfo p s
  | .sessInfo slot => serveSessInfo p slot s
  | .watch page => serveWatch p page s
  | .unwatch page => serveUnwatch p page s
  | .setConfig record => serveSetConfig p record s
  | .getConfig => serveGetConfig p s
  | .logRead seq => serveLogRead p seq s

/-- A request is taken into service on a port and handed to its block (R164). -/
def takeIntoService (p : PortId) (r : Request) (s : State) : State :=
  serve p r.op (s.setPort p { s.port p with inService := some { request := r, session := none, stage := .atOnce } })

end Sys2Proof.Machine
end

