-- ==== Sys2Proof/Machine/Formats.lean ====
section
/-! DEFINITION. The bytes of every record that crosses a host port on its way out: status byte, responses, notices, status
detail, fault and settings records (Chapter 11). -/

namespace Sys2Proof.Machine

/-- A number as one byte. -/
def byteOf (n : Nat) : Byte := BitVec.ofNat 8 n

/-- A number as two bytes, least significant first. -/
def bytesOf16 (n : Nat) : List Byte := bytes16 (BitVec.ofNat 16 n)

/-- A flag as one byte. -/
def byteOfFlag (b : Bool) : Byte := if b then 1 else 0

/-- An abort reason's code (R176). -/
def AbortReason.code : AbortReason → Byte
  | .requested => 1
  | .expired => 2
  | .guard _ => 3
  | .group => 4
  | .media _ => 5
  | .portReset => 6

/-- An abort reason and, for GUARD and MEDIA, its logical page (R176, R177). -/
def AbortReason.bytes (r : AbortReason) : List Byte :=
  match r with
  | .guard page => [r.code, byteOfPage page]
  | .media page => [r.code, byteOfPage page]
  | .requested => [r.code]
  | .expired => [r.code]
  | .group => [r.code]
  | .portReset => [r.code]

/-- The flags NEWCLAIM (bit 0) and ZEROED (bit 1) of a write's outcome (R76, R176). -/
def writeFlags (newClaim zeroed : Bool) : Byte := byteOf (newClaim.toNat + 2 * zeroed.toNat)

/-- A handle byte, 0x80 where there is none (R176). -/
def handleByte (h : Option Handle) : Byte := h.getD 0x80

/-- The kind code of a fault record (R179). -/
def FaultKind.code : FaultKind → Byte
  | .corrected => 1
  | .uncorrectable => 2
  | .retired => 3
  | .relocated => 4

/-- The context code of a fault record (R179). -/
def ReadContext.code : ReadContext → Byte
  | .read => 1
  | .copy => 2
  | .scrub => 3
  | .relocate => 4

/-- The presence byte of a fault record (R179, R180). -/
def FaultRecord.presence (r : FaultRecord) : Byte :=
  byteOf (r.word.isSome.toNat + 2 * r.context.isSome.toNat + 4 * r.page.isSome.toNat + 8 * r.handle.isSome.toNat)

/-- The eleven bytes of a fault record; an absent field is 0 (R179, R180). -/
def FaultRecord.bytes (r : FaultRecord) : List Byte :=
  bytes16 r.seq ++ [r.kind.code] ++ bytesOf16 r.frame.val ++
    [byteOf ((r.word.map Fin.val).getD 0), (r.syndrome.getD 0).setWidth 8, (r.context.map ReadContext.code).getD 0,
      (r.page.map byteOfPage).getD 0, r.handle.getD 0, r.presence]

/-- The port byte of a settings record: bit 0 RESP, bit 1 NOTE, bit 2 fault notices (R179). -/
def Settings.portByte (s : Settings) (p : PortId) : Byte :=
  byteOf (s.respMask[p].toNat + 2 * s.noteMask[p].toNat + 4 * s.faultNotices[p].toNat)

/-- The thirteen bytes of the settings record (R179, R180). -/
def Settings.bytes (s : Settings) : List Byte :=
  bytesOf16 s.scrubPeriod ++ [byteOf s.retireThreshold] ++ bytesOf16 s.defaultBudget ++
    s.quotas.toList.map byteOf ++ (List.finRange 4).map s.portByte

/-- The code of a session's state (R176). -/
def SessionState.code : SessionState → Byte
  | .free => 0
  | .opened => 1
  | .ready => 2

/-- The code of a session's activity (R176). -/
def Activity.code : Activity → Byte
  | .idle => 0
  | .copying => 1
  | .parked => 2

/-- The nine bytes of a PAGEINFO report (R176). -/
def PageReport.bytes (r : PageReport) : List Byte :=
  [byteOfPage r.page] ++ bytesOf16 r.frame.val ++ bytes16 r.version ++
    [byteOfFlag (decide (r.condition = .poisoned)), handleByte r.claim, byteOfFlag r.relocating, byteOf r.parked]

/-- The fifteen bytes of a POOLINFO report (R176). -/
def PoolReport.bytes (r : PoolReport) : List Byte :=
  bytesOf16 r.free ++ bytesOf16 r.mapped ++ bytesOf16 r.shadow ++ bytesOf16 r.held ++ bytesOf16 r.moving ++
    bytesOf16 r.retired ++ bytesOf16 r.poolLength ++ [byteOf r.relocationLength]

/-- The twelve bytes of a SESSINFO report (R176). -/
def SessionReport.bytes (r : SessionReport) : List Byte :=
  [r.handle, r.state.code, (r.port.map fun p => byteOf p.val).getD 0xFF,
    (r.group.map fun g => byteOf (g.val + 1)).getD 0] ++ bytesOf16 r.budget ++
    [r.activity.code, byteOf r.shadows, byteOf r.zeroed, byteOf (r.job.toNat + 2 * r.waitPage.isSome.toNat),
      byteOf r.guards, (r.waitPage.map byteOfPage).getD 0]

/-- The result code of an answer (R176). -/
def Answer.code : Answer → Byte
  | .done => 0x01
  | .openedOk _ => 0x01
  | .readOk _ => 0x01
  | .writeOk _ _ => 0x01
  | .pageInfo _ => 0x01
  | .poolInfo _ => 0x01
  | .sessInfo _ => 0x01
  | .watched _ => 0x01
  | .config _ => 0x01
  | .logOk _ _ _ => 0x01
  | .committed _ => 0x02
  | .ready => 0x03
  | .applied _ _ => 0x04
  | .closing => 0x05
  | .waiting => 0x06
  | .badValue => 0x07
  | .quota => 0x08
  | .groupClosed => 0x09
  | .limit => 0x0A
  | .bounds => 0x0B
  | .poisoned _ => 0x0C
  | .aborted _ => 0x0D
  | .stale => 0x0E
  | .notOwner => 0x0F
  | .notOpen => 0x10
  | .conflict _ => 0x11
  | .noSession => 0x12
  | .deadlock => 0x14
  | .noPage => 0x15
  | .busy => 0x16
  | .already => 0x17
  | .groupEmpty => 0x18
  | .notWatched => 0x19
  | .logEmpty _ => 0x1A

/-- The payload of an answer (R176). -/
def Answer.payload : Answer → List Byte
  | .openedOk handle => [handle]
  | .readOk data => data
  | .poisoned page => [byteOfPage page]
  | .writeOk newClaim zeroed => [writeFlags newClaim zeroed]
  | .conflict holder => [holder]
  | .aborted reason => reason.bytes
  | .committed pages => [byteOf pages]
  | .applied members pages => byteOf members :: bytesOf16 pages
  | .pageInfo report => report.bytes
  | .poolInfo report => report.bytes
  | .sessInfo report => report.bytes
  | .watched entries => [byteOf entries]
  | .config settings => settings.bytes
  | .logOk record held next => record.bytes ++ [byteOf held] ++ bytes16 next
  | .logEmpty next => bytes16 next
  | .done => []
  | .ready => []
  | .closing => []
  | .waiting => []
  | .badValue => []
  | .quota => []
  | .groupClosed => []
  | .limit => []
  | .bounds => []
  | .stale => []
  | .notOwner => []
  | .notOpen => []
  | .noSession => []
  | .deadlock => []
  | .noPage => []
  | .busy => []
  | .already => []
  | .groupEmpty => []
  | .notWatched => []

/-- A record with its CRC (R173). -/
def withCrc (span : List Byte) : List Byte := span ++ [crc8 span]

/-- A response record: tag, result code, payload length, payload, CRC (R176). -/
def Response.bytes (r : Response) : List Byte :=
  withCrc (r.tag :: r.answer.code :: (bytesOf16 r.answer.payload.length ++ r.answer.payload))

/-- The empty response record (R178). -/
def emptyResponse : List Byte := withCrc [0x00, 0x00, 0x00, 0x00]

/-- The kind code of a notice (R177). -/
def NoticeBody.code : NoticeBody → Byte
  | .sessionAborted _ _ => 0x01
  | .writeDone _ _ _ => 0x02
  | .writeFailed _ _ => 0x03
  | .groupApplied _ _ => 0x04
  | .groupResult _ _ => 0x05
  | .watchChanged _ _ _ => 0x06
  | .fault _ _ => 0x07

/-- The payload of a notice (R177). -/
def NoticeBody.payload : NoticeBody → List Byte
  | .sessionAborted handle reason => handle :: reason.bytes
  | .writeDone handle newClaim zeroed => [handle, writeFlags newClaim zeroed]
  | .writeFailed handle .noPage => [handle, Answer.noPage.code]
  | .writeFailed handle .poisoned => [handle, 0x0C]
  | .groupApplied handle pages => [handle, byteOf pages]
  | .groupResult g (.applied members pages) => byteOf (g.val + 1) :: 0 :: byteOf members :: bytesOf16 pages
  | .groupResult g (.aborted first reason) => byteOf (g.val + 1) :: 1 :: first :: reason.bytes
  | .watchChanged page version handle => byteOfPage page :: (bytes16 version ++ [handle])
  | .fault seq kind => bytes16 seq ++ [kind.code]

/-- A notice record: kind, overrun, payload length, payload, CRC (R177). -/
def Notice.bytes (n : Notice) : List Byte :=
  withCrc (n.body.code :: byteOfFlag n.overrun :: byteOf n.body.payload.length :: n.body.payload)

/-- The empty notice record (R178). -/
def emptyNotice : List Byte := withCrc [0x00, 0x00, 0x00]

/-- The code of a discard cause (R177). -/
def causeCode : DiscardCause → Byte
  | .none => 0
  | .notReady => 1
  | .truncated => 2
  | .length => 3
  | .crc => 4
  | .noCredit => 5
  | .frameCode => 6

/-- The status detail record that a PSTAT shifts out (R168, R177). -/
def PortRec.detail (r : PortRec) : List Byte :=
  withCrc
    [byteOfFlag r.ready, byteOf r.credits, byteOf r.requests.length, byteOfFlag r.inService.isSome,
      byteOf r.responses.length, byteOf r.notices.length, byteOf r.watches.length, byteOfFlag r.ferr,
      causeCode r.cause, byteOfFlag r.overrun]

/-- The port status byte (R160, R172). -/
def PortRec.statusByte (r : PortRec) : Byte :=
  byteOf (128 * r.ready.toNat + 64 * (!r.responses.isEmpty).toNat + 32 * (!r.notices.isEmpty).toNat +
    16 * r.ferr.toNat + 8 * r.overrun.toNat + r.credits)

end Sys2Proof.Machine
end

