-- ==== Sys2Proof/Machine/Wire.lean ====
section
/-! DEFINITION. The frames of a host port: the frame in progress, the judging of each frame at its release, acceptance and
taking into service of requests, and the port reset (Chapter 10). -/

namespace Sys2Proof.Machine

/-! ## Taking requests into service (R164) -/

/-- Whether a port has a request to take into service: none in service, and one waiting (R164). -/
def PortRec.waiting (r : PortRec) : Bool := r.inService.isNone && !r.requests.isEmpty

/-- The ports that have a request to take into service, ascending. -/
def State.waitingPorts (s : State) : List PortId := (List.finRange 4).filter fun p => (s.port p).waiting

/-- The request at the head of a port's queue is taken into service and served (R164). -/
def serveHead (p : PortId) (s : State) : State :=
  match (s.port p).requests with
  | [] => s
  | r :: rest => takeIntoService p r (s.setPort p { s.port p with requests := rest })

/-- Requests are taken into service until no port has one to take, at most n of them. Where several ports have one, a free
draw says which goes next (R164; assumption 8). -/
def settleUpTo : Nat → State → State
  | 0, s => s
  | n + 1, s =>
    match s.waitingPorts with
    | [] => s
    | [p] => settleUpTo n (serveHead p s)
    | p :: q :: rest =>
      let chosen := (p :: q :: rest).getD (Config.portDraw s.draws % (rest.length + 2)) p
      settleUpTo n (serveHead chosen { s with draws := s.draws + 1 })

/-- The number of requests that wait in the ports' queues. -/
def State.queued (s : State) : Nat := ((List.finRange 4).map fun p => (s.port p).requests.length).sum

/-- Every port that has a request to take into service takes it, after the event's last step (R164). -/
def settle (s : State) : State := settleUpTo s.queued s

/-- The end of an event: a relocation whose start conditions now hold is started after the rest of its steps (R141), and then
the ports whose request left service take their next ones (R164; assumption 16). -/
def endEvent (s : State) : State := settle (startRelocation s)

/-! ## Frames on the wire (10.2) -/

/-- A frame is discarded: FERR is set and the cause replaced (R163). -/
def discard (p : PortId) (cause : DiscardCause) (s : State) : State :=
  s.setPort p { s.port p with ferr := true, cause := cause }

/-- What a frame shifts out after its status byte is fixed: the record, and whether it is a record of the port's and not an
empty one (R161, R166 to R168, R178). A REQUEST, a PRESET and an unknown frame shift out filler alone. -/
def PortRec.fixRecord (r : PortRec) (code : Byte) : List Byte × Bool :=
  if code = 0x46#8 then
    match r.responses with
    | [] => (emptyResponse, false)
    | response :: _ => (response.bytes, true)
  else if code = 0x4E#8 then
    match r.notices with
    | [] => (emptyNotice, false)
    | notice :: _ => (notice.bytes, true)
  else if code = 0x53#8 then (r.detail, true)
  else ([], false)

/-- The status byte, the record and its standing that a frame of a code has at its release, with the frame begun and coded
there and then where no earlier event began it (assumption 12); none for a frame a device reset ended (R159). -/
def PortRec.wireAt (r : PortRec) (code : Byte) : Option (Byte × List Byte × Bool) :=
  match r.wire with
  | .disregarded => none
  | .idle => some (r.statusByte, r.fixRecord code)
  | .begun status => some (status, r.fixRecord code)
  | .coded status code' record held =>
    if code' = code then some (status, record, held) else some (r.statusByte, r.fixRecord code)

/-- The bytes a frame of n bytes after its code shifts out after the status byte: the record from its first byte, then filler
(R166). -/
def shiftedOut (record : List Byte) (n : Nat) : List Byte :=
  record.take n ++ List.replicate (n - record.length) 0x00#8

/-- CSN is released: the frame in progress ends with the bytes it has shifted out. -/
def endFrame (p : PortId) (out : List Byte) (s : State) : State :=
  s.setPort p { s.port p with wire := .idle, sdo := out }

/-- The release of a frame: one that a device reset ended is not judged (R159); any other ends with its bytes shifted out and
is then judged, the judge being told whether a record of the port's was fixed and how many bytes it has. -/
def releaseWire (p : PortId) (code : Byte) (n : Nat) (judge : Bool → Nat → State → State) (s : State) : State :=
  match (s.port p).wireAt code with
  | none => s.setPort p { s.port p with wire := .idle }
  | some (status, record, held) => judge held record.length (endFrame p (status :: shiftedOut record n) s)

/-- The three cases of a FETCH, NOTE, PSTAT or PRESET frame: status-only after its code alone, discarded with cause CRC at a
check byte other than 0xFF, else what its own rule says (R161). -/
def checkedFrame (p : PortId) (sent : List Byte) (act : State → State) (s : State) : State :=
  match sent with
  | [] => s
  | check :: _ => if check = 0xFF#8 then act s else discard p .crc s

/-- A completed FETCH: the head response leaves, a credit is returned, ATTN is re-evaluated (R166). -/
def completeFetch (p : PortId) (s : State) : State :=
  let r := s.port p
  match r.responses with
  | [] => s
  | _ :: rest => s.setPort p (PortRec.evalAttn { r with responses := rest, credits := r.credits + 1 } s.settings p)

/-- A completed NOTE: the head notice leaves, ATTN is re-evaluated (R146, R167). -/
def completeNote (p : PortId) (s : State) : State :=
  let r := s.port p
  s.setPort p (PortRec.evalAttn { r with notices := r.notices.tail } s.settings p)

/-- A completed PSTAT: FERR is cleared and the last discard cause becomes NONE (R168). -/
def completePstat (p : PortId) (s : State) : State :=
  s.setPort p { s.port p with ferr := false, cause := .none }

/-- A judged REQUEST frame: discarded NOT_READY, with the cause of its shape or CRC, or NO_CREDIT; else accepted, one credit
consumed, the request appended to the queue and taken into service when none is (R162, R164). -/
def judged (p : PortId) (judgement : Except DiscardCause Request) (s : State) : State :=
  let r := s.port p
  if !r.ready then discard p .notReady s
  else
    match judgement with
    | .error cause => discard p cause s
    | .ok request =>
      if r.credits = 0 then discard p .noCredit s
      else settle (s.setPort p { r with credits := r.credits - 1, requests := r.requests ++ [request] })

/-- The release of a REQUEST frame of n bytes after its code, judged (R161, R162). -/
def releaseRequest (p : PortId) (n : Nat) (judgement : Except DiscardCause Request) (s : State) : State :=
  releaseWire p 0x52#8 n (fun _ _ t => judged p judgement t) s

/-- The release of a REQUEST frame that carries a request in its right shape with its right CRC; a WRITE of more than 64 bytes
has no right shape and fails LENGTH (R162; assumption 1). -/
def sendRequest (p : PortId) (request : Request) (s : State) : State :=
  releaseRequest p (request.op.params.length + 4)
    (match request.op with
      | .write _ _ _ data => if data.length ≤ Config.writeMax then .ok request else .error .length
      | _ => .ok request) s

/-! ## Port reset (10.6) -/

/-- Step 1 of R170: the request in service is cancelled; it names no session any more, and its response is not made. -/
def dropService (p : PortId) (s : State) : State :=
  match (s.port p).inService with
  | none => s
  | some r => setService p none .atOnce (stopService p r s)

/-- The rest of steps 1 and 3 to 6 of R170: the cancelled request is gone, the queues and the watch list are emptied, the
overrun flag, FERR and the discard cause cleared, the credits 4, ATTN re-evaluated. -/
def clearPort (p : PortId) (s : State) : State :=
  s.setPort p (PortRec.evalAttn
    { s.port p with
      inService := none, requests := [], responses := [], notices := [], overrun := false, watches := [],
      credits := Config.credits, ferr := false, cause := .none } s.settings p)

/-- The port reset of a port, one event; in NOT_READY it finds nothing to reset and leaves FERR and the discard cause (R170). -/
def resetPort (p : PortId) (s : State) : State :=
  if (s.port p).ready then endEvent (clearPort p (abortPort p (dropService p s))) else s

end Sys2Proof.Machine
end

