-- ==== Sys2Proof/Machine/Access.lean ====
section
/-! DEFINITION. Word accesses: the store arbiter's ring (R33), what a correctable and an uncorrectable word do (R127, R130 to
R132), and the access each client makes at its grant. -/

namespace Sys2Proof.Machine

/-! ## Detections -/

/-- Step 2 and 3 of R127: the frame's corrected count steps, saturating at 15; a SHADOW frame now at the retire threshold is
flagged (R28, R29). -/
def countCorrected (pf : PF) (s : State) : State :=
  let f := s.frame pf
  let count := if f.corrected < Config.correctedMax then f.corrected + 1 else f.corrected
  s.setFrame pf
    { f with
      corrected := count
      retireOnRelease :=
        f.retireOnRelease || (decide (f.state = .shadow) && decide (s.settings.retireThreshold ≤ count)) }

/-- A word that decodes correctable, in the event of its detection: the count, the flag, the CORRECTED record, the write-back
unless eight are waiting (R127, R128). -/
def correctableWord (pf : PF) (k : WordIx) (syn : Syndrome) (data : Word) (context : ReadContext) (s : State) : State :=
  let t := countCorrected pf s
  let t := appendRecord .corrected pf (some k) (some syn) (some context) (t.recordPage pf) (t.recordHandle pf) t
  if t.writeBacks.length < Config.writeBackCapacity then
    { t with writeBacks := t.writeBacks ++ [⟨pf, k, syn, data⟩] }
  else t

/-- The first part of R130: the UNCORRECTABLE record is appended and the frame flagged. -/
def uncorrectableRecord (pf : PF) (k : WordIx) (syn : Syndrome) (context : ReadContext) (s : State) : State :=
  flagFrame pf
    (appendRecord .uncorrectable pf (some k) (some syn) (some context) (s.recordPage pf) (s.recordHandle pf) s)

/-- A page becomes POISONED: a relocation of it is abandoned, and it leaves the relocation list (R6, R130). -/
def poisonPage (page : LP) (s : State) : State :=
  let t := s.setEntry page { s.entry page with condition := .poisoned }
  let t := if (t.entry page).relocating then abandonRelocation page t else t
  unlistRelocation page t

/-- The page of the shadow entry that names a frame (R47, R130). -/
def State.shadowPage (s : State) (slot : Slot) (pf : PF) : LP :=
  match (s.session slot).shadows.find? fun e => e.frame = pf with
  | some e => e.page
  | none => 0

/-- The rest of R130, by the frame's state and owner at the detection: a MAPPED frame's page is poisoned, a SHADOW frame's
session aborted MEDIA, a HELD frame reaches nothing. -/
def uncorrectableEffect (pf : PF) (was : FrameRec) (s : State) : State :=
  match was.state, was.owner with
  | .mapped, some (.page page) => poisonPage page s
  | .shadow, some (.session slot) => abortSession slot (.media (s.shadowPage slot pf)) s
  | _, _ => s

/-! ## The clients -/

/-- The bytes first to last of a word. -/
def wordBytes (w : Word) (first last : Nat) : List Byte :=
  ((List.range 4).filter fun n => decide (first ≤ n) && decide (n ≤ last)).map (byteOfWord w)

/-- A READ's data copy meets an uncorrectable word: its pins go first, then the frame's state decides, and a READ still in
service is answered POISONED with the page read from that frame (R14, R131). -/
def readFails (p : PortId) (r : InService) (a : ReadAccess) (syn : Syndrome) (s : State) : State :=
  let was := s.frame a.frame
  let t := uncorrectableRecord a.frame a.word syn .read s
  let t := stopService p r t
  let t := uncorrectableEffect a.frame was t
  respond p (.poisoned a.page) t

/-- One word access of a READ's data copy (R13). -/
def readStep (p : PortId) (r : InService) (pins : List PF) (a : ReadAccess) (todo : List ReadAccess) (data : List Byte)
    (s : State) : State :=
  let w := s.word a.frame a.word
  match w.decode with
  | .clean d => setService p r.session (.reading pins todo (data ++ wordBytes d a.first a.last)) s
  | .correctable d =>
    setService p r.session (.reading pins todo (data ++ wordBytes d a.first a.last))
      (correctableWord a.frame a.word w.diff d .read s)
  | .uncorrectable => readFails p r a w.diff s

/-- The outcome of placing a write's bytes in one word of a shadow: the state after it, and whether the placement goes on. A
full word is written; a partial one is read, merged and written as one access (R32, R60). -/
def placeWord (pf : PF) (write : PendingWrite) (k : WordIx) (s : State) : Except Syndrome State :=
  if write.full k then .ok (s.writeWord pf k (write.merge k 0))
  else
    let w := s.word pf k
    match w.decode with
    | .clean d => .ok (s.writeWord pf k (write.merge k d))
    | .correctable d => .ok ((correctableWord pf k w.diff d .read s).writeWord pf k (write.merge k d))
    | .uncorrectable => .error w.diff

/-- A merge read finds an uncorrectable word in a shadow: the session is aborted MEDIA; a WRITE on that port still in service
has met no session of its own and is answered POISONED (R32, R61). -/
def placeFails (p : PortId) (pf : PF) (k : WordIx) (page : LP) (syn : Syndrome) (s : State) : State :=
  let was := s.frame pf
  let t := uncorrectableRecord pf k syn .read s
  let t := uncorrectableEffect pf was t
  match (t.port p).inService with
  | some ⟨_, _, .placing _ _ _ _⟩ => respond p (.poisoned page) t
  | _ => t

/-- The page a request's span lies in (R1). -/
def pageOfOp : RequestOp → LP
  | .write _ address _ _ => Fin.ofNat 256 (address.toNat / 256)
  | .read _ address _ => Fin.ofNat 256 (address.toNat / 256)
  | _ => 0

/-- One word access of a WRITE's placement on the shadowed path (R60, R61). -/
def placeStep (p : PortId) (r : InService) (pf : PF) (write : PendingWrite) (k : WordIx) (todo : List WordIx)
    (zeroed : Bool) (s : State) : State :=
  match placeWord pf write k s with
  | .ok t => setService p r.session (.placing pf write todo zeroed) t
  | .error syn => placeFails p pf k (pageOfOp r.request.op) syn s

/-- The active job's next access is set (R66). -/
def setProgress (progress : Progress) (s : State) : State :=
  match s.jobs with
  | [] => s
  | job :: rest => { s with jobs := { job with progress := progress } :: rest }

/-- The access after a word of a fill was written: the next word, or after word 63 the placement (R68, R69, R142). -/
def afterFill (job : Job) (k : WordIx) : Progress :=
  if h : k.val + 1 < 64 then
    match job.kind with
    | .copy _ _ _ _ => .fillRead ⟨k.val + 1, h⟩
    | .zero _ _ _ => .fillWrite ⟨k.val + 1, h⟩ 0
    | .relocate _ => .fillRead ⟨k.val + 1, h⟩
  else
    match job.kind with
    | .copy _ _ write _ => .place write.covered
    | .zero _ write _ => .place write.covered
    | .relocate _ => .place []

/-- A shadow entry of a page leaves a session's list, the entries behind it closing up (R40, R72). -/
def dropEntry (slot : Slot) (page : LP) (s : State) : State :=
  modifySession slot (fun r => { r with shadows := r.shadows.filter fun e => e.page ≠ page }) s

/-- A first write whose copy source proved unreadable fails without ending its session: steps 2 to 7 of R72, the source pin
released already. -/
def failWrite (slot : Slot) (page : LP) (target : PF) (origin : Origin) (s : State) : State :=
  let s := { s with jobs := s.jobs.tail }
  let s := dropEntry slot page s
  let s := releaseFrame target s
  let s := s.setEntry page { s.entry page with claim := none }
  let s := offerClaim page s
  let s := modifySession slot (fun r => { r with activity := .idle }) s
  match origin, (s.session slot).port with
  | .inService, some p => respond p (.poisoned page) s
  | .granted, some p => queueNotice p (.writeFailed (s.handle slot) .poisoned) s
  | _, none => s

/-- A COPY job meets an uncorrectable source word. A MAPPED source poisons its page and the write fails (R72). A HELD source
has been relocated away: the job restarts from the page's current frame, unless that page is POISONED (R73). -/
def copyFails (job : Job) (slot : Slot) (source : PF) (write : PendingWrite) (origin : Origin) (k : WordIx) (syn : Syndrome)
    (s : State) : State :=
  let was := s.frame source
  let t := uncorrectableRecord source k syn .copy s
  if was.state = .held then
    let t := unpinFrame source t
    if (t.entry job.page).condition = .poisoned then failWrite slot job.page job.target origin t
    else
      let fresh := (t.entry job.page).frame
      let restarted : Job := { job with kind := .copy slot fresh write origin, progress := .fillRead 0 }
      pinFrame fresh { t with jobs := restarted :: t.jobs.tail }
  else
    failWrite slot job.page job.target origin (unpinFrame source (uncorrectableEffect source was t))

/-- A RELOCATE job meets an uncorrectable source word: the page is poisoned, and its relocation with it abandoned (R131,
R142, R144). -/
def relocateFails (job : Job) (source : PF) (k : WordIx) (syn : Syndrome) (s : State) : State :=
  let was := s.frame source
  let t := uncorrectableEffect source was (uncorrectableRecord source k syn .relocate s)
  if (t.jobs.head?.map Job.kind) = some job.kind then abandonRelocation job.page t else t

/-- A job's fill reads a source word (R68, R142). -/
def fillStep (job : Job) (source : PF) (k : WordIx) (s : State) : State :=
  let w := s.word source k
  match w.decode with
  | .clean d => setProgress (.fillWrite k d) s
  | .correctable d =>
    setProgress (.fillWrite k d)
      (correctableWord source k w.diff d (if job.isRelocate then .relocate else .copy) s)
  | .uncorrectable =>
    match job.kind with
    | .copy slot _ write origin => copyFails job slot source write origin k w.diff s
    | .relocate _ => relocateFails job source k w.diff s
    | .zero _ _ _ => s

/-- A merge read of a job's placement finds its target uncorrectable: the frame is flagged and the session aborted MEDIA (R32,
R71). -/
def jobPlaceFails (pf : PF) (k : WordIx) (syn : Syndrome) (s : State) : State :=
  uncorrectableEffect pf (s.frame pf) (uncorrectableRecord pf k syn .read s)

/-- One word access of the active job (R67 to R69, R142). -/
def jobStep (job : Job) (s : State) : State :=
  match job.progress with
  | .fillRead k =>
    match job.source? with
    | some source => fillStep job source k s
    | none => s
  | .fillWrite k data => setProgress (afterFill job k) (s.writeWord job.target k data)
  | .place [] => s
  | .place (k :: todo) =>
    match placeWord job.target job.write k s with
    | .ok t => setProgress (.place todo) t
    | .error syn => jobPlaceFails job.target k syn s

/-- The examination at the end of a scrub read, the frame as it stands: a MAPPED frame of a NORMAL page at the threshold has
its page listed for relocation; a SHADOW frame at it is flagged (R139, R140). -/
def examineFrame (pf : PF) (s : State) : State :=
  let f := s.frame pf
  if f.corrected < s.settings.retireThreshold then s
  else
    match f.state, f.owner with
    | .mapped, some (.page page) =>
      if (s.entry page).condition = .normal ∧ ¬ page ∈ s.relocations ∧ s.relocations.length < Config.relocationCapacity then
        { s with relocations := s.relocations ++ [page] }
      else s
    | .shadow, _ => flagFrame pf s
    | _, _ => s

/-- The scrub period timer is restarted with the period; a period of 0 leaves it stopped (R137). -/
def restartTimer (s : State) : State := { s with timer := retime s.settings.scrubPeriod none }

/-- The end of a scrub read after its last word: the pin is released, the frame examined, the timer restarted (R139). -/
def endScrub (pf : PF) (s : State) : State :=
  restartTimer (examineFrame pf (unpinFrame pf { s with scrub := none }))

/-- A scrub read meets an uncorrectable word and ends at it, its own pin released before the frame's state decides (R130,
R131, R139). -/
def scrubFails (pf : PF) (k : WordIx) (syn : Syndrome) (s : State) : State :=
  let was := s.frame pf
  let t := uncorrectableRecord pf k syn .scrub s
  let t := unpinFrame pf { t with scrub := none }
  restartTimer (examineFrame pf (uncorrectableEffect pf was t))

/-- One word access of the scrub read in flight (R139). -/
def scrubStep (r : ScrubRead) (k : WordIx) (s : State) : State :=
  let w := s.word r.frame k
  let onward := fun (t : State) => { t with scrub := some { r with next := r.next + 1 } }
  match w.decode with
  | .clean _ => onward s
  | .correctable d => onward (correctableWord r.frame k w.diff d .scrub s)
  | .uncorrectable => scrubFails r.frame k w.diff s

/-- The write-backs left after those whose frame is RETIRED were dropped from the head (R129). -/
def State.liveWriteBacks (s : State) : List WriteBack :=
  s.writeBacks.dropWhile fun b => (s.frame b.frame).state = .retired

/-- A write-back's access: the word is read again and written with the corrected data only if syndrome and corrected data are
those of the entry (R129). The entry leaves the list. -/
def writeBackStep (b : WriteBack) (rest : List WriteBack) (s : State) : State :=
  let w := s.word b.frame b.word
  let t := { s with writeBacks := rest }
  if w.diff = b.syndrome ∧ w.decode = .correctable b.data then t.writeWord b.frame b.word b.data else t

/-! ## The store arbiter -/

/-- The word the request in service on a port asks the store for, if any (R33). -/
def portWants (r : PortRec) : Option (PF × WordIx) :=
  match r.inService with
  | some ⟨_, _, .reading _ (a :: _) _⟩ => some (a.frame, a.word)
  | some ⟨_, _, .placing pf _ (k :: _) _⟩ => some (pf, k)
  | _ => none

/-- The word a job asks the store for, if any (R33). -/
def jobWants (job : Job) : Option (PF × WordIx) :=
  match job.progress with
  | .fillRead k => job.source?.map fun source => (source, k)
  | .fillWrite k _ => some (job.target, k)
  | .place [] => none
  | .place (k :: _) => some (job.target, k)

/-- The next word of a scrub read, if one is left (R139). -/
def scrubWants (r : ScrubRead) : Option WordIx := if h : r.next < 64 then some ⟨r.next, h⟩ else none

/-- The word the client at a position of the ring would access: positions 1 to 4 the ports, 5 the Copy Unit, 6 the Scrubber,
7 the Check Unit, whose first write-back of a frame that is not RETIRED counts (R33, R129). -/
def clientWord (s : State) (position : Nat) : Option (PF × WordIx) :=
  match position with
  | 1 => portWants (s.port 0)
  | 2 => portWants (s.port 1)
  | 3 => portWants (s.port 2)
  | 4 => portWants (s.port 3)
  | 5 => s.jobs.head?.bind jobWants
  | 6 => s.scrub.bind fun r => (scrubWants r).map fun k => (r.frame, k)
  | 7 => s.liveWriteBacks.head?.map fun b => (b.frame, b.word)
  | _ => none

/-- Whether the client at a position waits for a grant: it has an access to make; the Check Unit waits while its list is not
empty (R33, R128). -/
def clientWaits (s : State) (position : Nat) : Bool :=
  if position = 7 then !s.writeBacks.isEmpty else (clientWord s position).isSome

/-- The seven positions of the ring in the order a grant tries them after the position last granted (R33). -/
def ringAfter (last : Nat) : List Nat := (List.range 7).map fun i => (last + i) % 7 + 1

/-- The first waiting position after the position last granted (R33). -/
def nextClient (s : State) : Option Nat := (ringAfter s.lastGranted).find? (clientWaits s)

/-- The access of the request in service on a port. -/
def portAccess (p : PortId) (s : State) : State :=
  match (s.port p).inService with
  | some ⟨request, session, .reading pins (a :: todo) data⟩ =>
    readStep p ⟨request, session, .reading pins (a :: todo) data⟩ pins a todo data s
  | some ⟨request, session, .placing pf write (k :: todo) zeroed⟩ =>
    placeStep p ⟨request, session, .placing pf write (k :: todo) zeroed⟩ pf write k todo zeroed s
  | _ => s

/-- The access of the client at a position (R33). -/
def clientAccess (position : Nat) (s : State) : State :=
  match position with
  | 1 => portAccess 0 s
  | 2 => portAccess 1 s
  | 3 => portAccess 2 s
  | 4 => portAccess 3 s
  | 5 =>
    match s.jobs with
    | [] => s
    | job :: _ => jobStep job s
  | 6 =>
    match s.scrub with
    | none => s
    | some r =>
      match scrubWants r with
      | none => s
      | some k => scrubStep r k s
  | 7 =>
    match s.liveWriteBacks with
    | [] => { s with writeBacks := [] }
    | b :: rest => writeBackStep b rest s
  | _ => s

/-- The store after the word a client is about to access suffered a disturbance (assumption 5). -/
def disturbFor (position : Nat) (flips : BitVec 39) (s : State) : State :=
  match clientWord s position with
  | none => s
  | some (pf, k) => s.disturbWord pf k flips

/-- One grant of the store: the first waiting position after the one last granted makes one word access, on a word that has
first suffered the disturbance given (R33; assumption 5). With no client waiting nothing is granted. -/
def grant (flips : BitVec 39) (s : State) : State :=
  match nextClient s with
  | none => s
  | some position => endEvent (clientAccess position { disturbFor position flips s with lastGranted := position })

end Sys2Proof.Machine
end

