-- ==== Sys2Proof/Machine/Events.lean ====
section
/-! DEFINITION. The meanings of the rows that are events of the part itself: resets and the sweep, the tick, the arbiter, and
the ends of reads, placements, jobs, relocations and scrub reads. An event commanded while the condition it follows does not
stand is not taken, and nothing changes (assumption 2). -/

namespace Sys2Proof.Machine

/-- What every meaning answers. -/
abbrev Result := Host.Outcome State Fault Refusal

/-! ## Resets and the initialization sweep -/

/-- A port's record at a device reset: a frame in progress is ended without being judged (R158, R159). -/
def PortRec.deviceReset (r : PortRec) : PortRec :=
  { PortRec.reset with wire := if r.wire = .idle then .idle else .disregarded }

/-- DEVICE_RESET: power-on or assertion of RSTN returns every record, list and queue to its device-reset value and ends any
sweep or frame in progress (R3, R19, R22, R33, R35, R37, R158, R159). The store keeps what it holds until the sweep. -/
def execDeviceReset (s : State) : Result :=
  .next
    { State.reset with
      store := s.store, ports := s.ports.map PortRec.deviceReset, draws := s.draws, pending := s.pending }

/-- INITIALIZATION_SWEEP: at the release of RSTN the sweep writes every word of the store with zero data and the check bits of
zero data (R35; assumption 10). -/
def execInitializationSweep (s : State) : Result :=
  .next (match s.phase with
    | .inReset => { s with phase := .sweeping, store := [] }
    | .sweeping => s
    | .running => s)

/-- Every port becomes READY and the scrub period timer is started (R35, R137, R158). -/
def sweepEnded (s : State) : State :=
  restartTimer { s with phase := .running, ports := s.ports.map fun r => { r with ready := true } }

/-- SWEEP_END: the end of a running sweep (R35). -/
def execSweepEnd (s : State) : Result :=
  .next (match s.phase with
    | .inReset => s
    | .sweeping => sweepEnded s
    | .running => s)

/-! ## The tick -/

/-- The budget of every non-FREE session is lowered by one (R45). -/
def lowerBudgets (s : State) : State :=
  { s with
    sessions := s.sessions.map fun r => if r.state = .free then r else { r with budget := r.budget - 1 } }

/-- Whether the Scrubber may visit a frame: MAPPED with its page not relocating, or SHADOW and filled (R138). -/
def scrubEligible (s : State) (pf : PF) : Bool :=
  match (s.frame pf).state, (s.frame pf).owner with
  | .mapped, some (.page page) => !(s.entry page).relocating
  | .shadow, _ => !s.jobs.any fun j => j.session?.isSome && decide (j.target = pf)
  | _, _ => false

/-- The frames from the cursor upward, wrapping from PF 511 to PF 0 (R138). -/
def framesFrom (cursor : PF) : List PF := (List.finRange 512).map (cursor + ·)

/-- A scrub visit: the first eligible frame from the cursor is pinned and its read started, the cursor goes one past it, and
the timer stands until the read ends (R138). -/
def visitFrame (s : State) : State :=
  match (framesFrom s.cursor).find? (scrubEligible s) with
  | none => { s with timer := none }
  | some pf => pinFrame pf { s with timer := none, cursor := pf + 1, scrub := some { frame := pf, next := 0 } }

/-- One tick of the scrub period timer, with the visit in the tick that completes the period (R137). -/
def tickTimer (s : State) : State :=
  match s.timer with
  | none => s
  | some n => if n ≤ 1 then visitFrame s else { s with timer := some (n - 1) }

/-- TICK: the budgets are lowered (R45), the sessions they bring to 0 expire in the same event (R46), and the scrub period
timer counts, its visit selected against the frames as the expiries leave them (R137). -/
def execTick (s : State) : Result := .next (endEvent (tickTimer (expireSessions (lowerBudgets s))))

/-- EXPIRY: the sessions whose budget has reached 0 are aborted with reason EXPIRED in ascending slot order (R46). -/
def execExpiry (s : State) : Result := .next (endEvent (expireSessions s))

/-! ## The store arbiter and the ends of operations -/

/-- STORE_ARBITER_GRANT: one word access to the next waiting client in ring order (R33). -/
def execStoreArbiterGrant (flips : BitVec 39) (s : State) : Result := .next (grant flips s)

/-- READ_COMPLETION: after the last word of its data copy a READ releases its pins and is answered OK with the data (R13). -/
def execReadCompletion (p : PortId) (s : State) : Result :=
  .next (match (s.port p).inService with
    | some ⟨_, _, .reading pins [] data⟩ => endEvent (respond p (.readOk data) (unpinAll pins s))
    | _ => s)

/-- WRITE_PLACEMENT_END: the end of a shadowed-path placement, answered OK with NEWCLAIM clear (R60, R76). -/
def execWritePlacementEnd (p : PortId) (s : State) : Result :=
  .next (match (s.port p).inService with
    | some ⟨_, _, .placing _ _ [] zeroed⟩ => settle (respond p (.writeOk false zeroed) s)
    | _ => s)

/-- Whether a session's shadow entry of a page has its zeroed flag set (R76). -/
def State.zeroedEntry (s : State) (slot : Slot) (page : LP) : Bool :=
  (s.session slot).shadows.any fun e => decide (e.page = page) && e.zeroed

/-- A session job's completion: it leaves the queue, its source pin is released, the session is IDLE with the shadow filled,
and the WRITE is answered OK or WRITE_DONE is queued (R70, R88). -/
def completeJob (job : Job) (slot : Slot) (origin : Origin) (s : State) : State :=
  let s := { s with jobs := s.jobs.tail }
  let s := match job.source? with
    | none => s
    | some source => unpinFrame source s
  let s := modifySession slot (fun r => { r with activity := .idle }) s
  let zeroed := s.zeroedEntry slot job.page
  match origin, (s.session slot).port with
  | .inService, some p => respond p (.writeOk true zeroed) s
  | .granted, some p => queueNotice p (.writeDone (s.handle slot) true zeroed) s
  | _, none => s

/-- JOB_COMPLETION: the active COPY or ZERO job ends after its last placement access (R70). -/
def execJobCompletion (s : State) : Result :=
  .next (match s.jobs with
    | ⟨.copy slot source write origin, page, target, .place []⟩ :: _ =>
      endEvent (completeJob ⟨.copy slot source write origin, page, target, .place []⟩ slot origin s)
    | ⟨.zero slot write origin, page, target, .place []⟩ :: _ =>
      endEvent (completeJob ⟨.zero slot write origin, page, target, .place []⟩ slot origin s)
    | _ => s)

/-- The relocation switch: the page maps the target, its relocating flag is cleared, the RELOCATED record is appended, and the
source is unpinned and released flagged (R143). -/
def switchRelocation (page : LP) (source target : PF) (s : State) : State :=
  let s := { s with jobs := s.jobs.tail }
  let s := s.setEntry page { s.entry page with frame := target, relocating := false }
  let s := mapFrame target page s
  let s := appendRecord .relocated source none none (some .relocate) (some page) none s
  releaseFrame source (flagFrame source (unpinFrame source s))

/-- RELOCATION_SWITCH: the active RELOCATE job ends after its last target write and the switch is taken (R143). -/
def execRelocationSwitch (s : State) : Result :=
  .next (match s.jobs with
    | ⟨.relocate source, page, target, .place []⟩ :: _ => endEvent (switchRelocation page source target s)
    | _ => s)

/-- RELOCATION_START: where the start conditions hold, the head page of the relocation list gets a MOVING target and a RELOCATE
job (R141). Every event that makes them hold takes it at its own end. -/
def execRelocationStart (s : State) : Result := .next (startRelocation s)

/-- SCRUB_VISIT: at the expiry of the scrub period timer the next eligible frame is visited (R138). The tick that completes the
period takes it in its own event. -/
def execScrubVisit (s : State) : Result :=
  .next (if s.timer = some 0 ∧ s.scrub = none then visitFrame s else s)

/-- SCRUB_READ_END: the end of a scrub read after word 63 (R139). -/
def execScrubReadEnd (s : State) : Result :=
  .next (match s.scrub with
    | none => s
    | some r => if r.next < 64 then s else endEvent (endScrub r.frame s))

end Sys2Proof.Machine
end

