-- ==== Sys2Proof/Machine/PortFrames.lean ====
section
/-! DEFINITION. The meanings of the rows that are frames on a host port (Chapter 10). -/

namespace Sys2Proof.Machine

/-- REQUEST: at the release of a REQUEST frame the port applies its checks, and accepts the request or discards the frame
(R162, R175). -/
def execRequest (p : PortId) (sent : List Byte) (s : State) : Result :=
  .next (releaseRequest p sent.length (judgeRequest sent) s)

/-- FETCH: the head response, or the empty record, is clocked out; a completed FETCH removes the response and returns a credit
(R161, R166). -/
def execFetch (p : PortId) (sent : List Byte) (s : State) : Result :=
  .next (releaseWire p 0x46#8 sent.length
    (fun held len => checkedFrame p sent fun t => if held ∧ len ≤ sent.length then completeFetch p t else t) s)

/-- NOTE: the head notice, or the empty record, is clocked out; a completed NOTE removes the notice (R161, R167). -/
def execNote (p : PortId) (sent : List Byte) (s : State) : Result :=
  .next (releaseWire p 0x4E#8 sent.length
    (fun held len => checkedFrame p sent fun t => if held ∧ len ≤ sent.length then completeNote p t else t) s)

/-- PSTAT: the status detail is clocked out; a completed PSTAT clears FERR and the last discard cause (R161, R168). -/
def execPstat (p : PortId) (sent : List Byte) (s : State) : Result :=
  .next (releaseWire p 0x53#8 sent.length
    (fun held len => checkedFrame p sent fun t => if held ∧ len ≤ sent.length then completePstat p t else t) s)

/-- PRESET: a PRESET frame with the check byte 0xFF resets its port (R161, R170). -/
def execPreset (p : PortId) (sent : List Byte) (s : State) : Result :=
  .next (releaseWire p 0x5A#8 sent.length (fun _ _ => checkedFrame p sent (resetPort p)) s)

/-- UNKNOWN_FRAME_CODE: a frame whose first byte is no known frame code is discarded with cause FRAME_CODE, however many bytes
it holds (R161, R172). A code that is known names no such frame, and nothing changes. -/
def execUnknownFrameCode (p : PortId) (code : Byte) (sent : List Byte) (s : State) : Result :=
  .next (if [0x52#8, 0x46#8, 0x4E#8, 0x53#8, 0x5A#8].contains code then s
    else releaseWire p code sent.length (fun _ _ => discard p .frameCode) s)

/-- The assertion of CSN begins a frame and takes the status byte (R159, R160). -/
def beginFrame (p : PortId) (s : State) : State :=
  s.setPort p { s.port p with wire := .begun (s.port p).statusByte, sdo := [] }

/-- The end of the frame code byte fixes the record to shift out; the status byte is the one taken at the assertion of CSN, or
the present one where no event of its own asserted CSN (R160, R166; assumption 12). A frame a device reset ended is
disregarded (R159). -/
def codeFrame (p : PortId) (code : Byte) (s : State) : State :=
  let r := s.port p
  let fixed := r.fixRecord code
  match r.wire with
  | .disregarded => s
  | .begun status => s.setPort p { r with wire := .coded status code fixed.1 fixed.2, sdo := [status] }
  | .idle => s.setPort p { r with wire := .coded r.statusByte code fixed.1 fixed.2, sdo := [r.statusByte] }
  | .coded _ _ _ _ => s.setPort p { r with wire := .coded r.statusByte code fixed.1 fixed.2, sdo := [r.statusByte] }

/-- FRAME_CODE_BYTE_END: the end of a frame's frame code byte, or the assertion of CSN that begins the byte (R160, R166). -/
def execFrameCodeByteEnd (p : PortId) (part : CodeBytePart) (s : State) : Result :=
  .next (match part with
    | .csnAsserted => beginFrame p s
    | .codeByteEnd code => codeFrame p code s)

end Sys2Proof.Machine
end

