-- ==== Sys2Proof/Machine/RequestRows.lean ====
section
/-! DEFINITION. The meanings of the fifteen request rows: the release of a well-shaped REQUEST frame that carries the request,
judged by the port, queued and, when none is in service, served at once (R162, R164; assumption 1). What each request does
when it is served stands in Machine/Requests.lean. -/

namespace Sys2Proof.Machine

/-- OPEN (R44). -/
def execOpen (p : PortId) (tag group : Byte) (budget : BitVec 16) (s : State) : Result :=
  .next (sendRequest p ⟨tag, .openSession group budget⟩ s)

/-- ABORT (R53). -/
def execAbort (p : PortId) (tag : Byte) (handle : Handle) (s : State) : Result :=
  .next (sendRequest p ⟨tag, .abort handle⟩ s)

/-- GUARD (R94). -/
def execGuard (p : PortId) (tag : Byte) (handle : Handle) (page : LP) (version : BitVec 16) (s : State) : Result :=
  .next (sendRequest p ⟨tag, .guard handle page version⟩ s)

/-- READ (R17). -/
def execRead (p : PortId) (tag : Byte) (handle : Handle) (address length : BitVec 16) (s : State) : Result :=
  .next (sendRequest p ⟨tag, .read handle address length⟩ s)

/-- WRITE (R57). -/
def execWrite (p : PortId) (tag : Byte) (handle : Handle) (address : BitVec 16) (flags : Byte) (data : List Byte)
    (s : State) : Result :=
  .next (sendRequest p ⟨tag, .write handle address flags data⟩ s)

/-- COMMIT (R97). -/
def execCommit (p : PortId) (tag : Byte) (handle : Handle) (s : State) : Result :=
  .next (sendRequest p ⟨tag, .commit handle⟩ s)

/-- CLOSE (R114). -/
def execClose (p : PortId) (tag group : Byte) (s : State) : Result :=
  .next (sendRequest p ⟨tag, .close group⟩ s)

/-- PAGEINFO (R18). -/
def execPageInfo (p : PortId) (tag : Byte) (page : LP) (s : State) : Result :=
  .next (sendRequest p ⟨tag, .pageInfo page⟩ s)

/-- POOLINFO (R36). -/
def execPoolInfo (p : PortId) (tag : Byte) (s : State) : Result :=
  .next (sendRequest p ⟨tag, .poolInfo⟩ s)

/-- SESSINFO (R55). -/
def execSessInfo (p : PortId) (tag slot : Byte) (s : State) : Result :=
  .next (sendRequest p ⟨tag, .sessInfo slot⟩ s)

/-- WATCH (R151). -/
def execWatch (p : PortId) (tag : Byte) (page : LP) (s : State) : Result :=
  .next (sendRequest p ⟨tag, .watch page⟩ s)

/-- UNWATCH (R152). -/
def execUnwatch (p : PortId) (tag : Byte) (page : LP) (s : State) : Result :=
  .next (sendRequest p ⟨tag, .unwatch page⟩ s)

/-- SETCONFIG (R155). -/
def execSetConfig (p : PortId) (tag : Byte) (record : ConfigRecord) (s : State) : Result :=
  .next (sendRequest p ⟨tag, .setConfig record⟩ s)

/-- GETCONFIG (R156). -/
def execGetConfig (p : PortId) (tag : Byte) (s : State) : Result :=
  .next (sendRequest p ⟨tag, .getConfig⟩ s)

/-- LOGREAD (R136). -/
def execLogRead (p : PortId) (tag : Byte) (seq : BitVec 16) (s : State) : Result :=
  .next (sendRequest p ⟨tag, .logRead seq⟩ s)

end Sys2Proof.Machine
end

