-- ==== Sys2Proof/Machine/Dispatch.lean ====
section
/-! DEFINITION. exec: one arm per command. -/

namespace Sys2Proof.Machine

def exec (i : Instr) (s : State) : Host.Outcome State Fault Refusal :=
  match i with
  | .deviceReset => Sys2Proof.Machine.execDeviceReset s
  | .initializationSweep => Sys2Proof.Machine.execInitializationSweep s
  | .sweepEnd => Sys2Proof.Machine.execSweepEnd s
  | .tick => Sys2Proof.Machine.execTick s
  | .expiry => Sys2Proof.Machine.execExpiry s
  | .request port sent => Sys2Proof.Machine.execRequest port sent s
  | .fetch port sent => Sys2Proof.Machine.execFetch port sent s
  | .note port sent => Sys2Proof.Machine.execNote port sent s
  | .pstat port sent => Sys2Proof.Machine.execPstat port sent s
  | .preset port sent => Sys2Proof.Machine.execPreset port sent s
  | .unknownFrameCode port code sent => Sys2Proof.Machine.execUnknownFrameCode port code sent s
  | .openSession port tag group budget => Sys2Proof.Machine.execOpen port tag group budget s
  | .abort port tag handle => Sys2Proof.Machine.execAbort port tag handle s
  | .guard port tag handle page version => Sys2Proof.Machine.execGuard port tag handle page version s
  | .read port tag handle address length => Sys2Proof.Machine.execRead port tag handle address length s
  | .write port tag handle address flags data => Sys2Proof.Machine.execWrite port tag handle address flags data s
  | .commit port tag handle => Sys2Proof.Machine.execCommit port tag handle s
  | .close port tag group => Sys2Proof.Machine.execClose port tag group s
  | .pageInfo port tag page => Sys2Proof.Machine.execPageInfo port tag page s
  | .poolInfo port tag => Sys2Proof.Machine.execPoolInfo port tag s
  | .sessInfo port tag slot => Sys2Proof.Machine.execSessInfo port tag slot s
  | .watch port tag page => Sys2Proof.Machine.execWatch port tag page s
  | .unwatch port tag page => Sys2Proof.Machine.execUnwatch port tag page s
  | .setConfig port tag record => Sys2Proof.Machine.execSetConfig port tag record s
  | .getConfig port tag => Sys2Proof.Machine.execGetConfig port tag s
  | .logRead port tag seq => Sys2Proof.Machine.execLogRead port tag seq s
  | .storeArbiterGrant flips => Sys2Proof.Machine.execStoreArbiterGrant flips s
  | .readCompletion port => Sys2Proof.Machine.execReadCompletion port s
  | .writePlacementEnd port => Sys2Proof.Machine.execWritePlacementEnd port s
  | .jobCompletion => Sys2Proof.Machine.execJobCompletion s
  | .relocationSwitch => Sys2Proof.Machine.execRelocationSwitch s
  | .relocationStart => Sys2Proof.Machine.execRelocationStart s
  | .scrubVisit => Sys2Proof.Machine.execScrubVisit s
  | .scrubReadEnd => Sys2Proof.Machine.execScrubReadEnd s
  | .frameCodeByteEnd port part => Sys2Proof.Machine.execFrameCodeByteEnd port part s

end Sys2Proof.Machine
end

