-- ==== Sys2Proof/Safety.lean ====
section
/-! DEFINITION. What holds of the device at every instant, and the next states that the statements speak of. -/

namespace Sys2Proof.Machine

/-! ## Laws of the ports (Chapters 9 and 10) -/

/-- Credits and the requests queued, in service and answered but not fetched are four together (R164). -/
def PortRec.CreditLaw (r : PortRec) : Prop :=
  r.credits + r.requests.length + r.inService.toList.length + r.responses.length = 4

/-- The credit law holds at every port (R164). -/
def State.CreditLaw (s : State) : Prop := ∀ p, (s.port p).CreditLaw

/-- No port has a request waiting in its queue while none is in service: each is taken as soon as it can be (R164). -/
def State.QueueLaw (s : State) : Prop := ∀ p, (s.port p).waiting = false

/-- Every ATTN line is asserted exactly while a masked-on queue of its port holds something (R157). -/
def State.AttnLaw (s : State) : Prop :=
  ∀ p, (s.port p).attn = true ↔
    (s.settings.respMask[p] = true ∧ (s.port p).responses ≠ []) ∨ (s.settings.noteMask[p] = true ∧ (s.port p).notices ≠ [])

/-- No notice queue holds more than 8 notices (R146). -/
def State.NoticeLaw (s : State) : Prop := ∀ p, (s.port p).notices.length ≤ 8

/-- No watch list holds a page twice, or more than 16 pages (R150). -/
def State.WatchLaw (s : State) : Prop := ∀ p, (s.port p).watches.Nodup ∧ (s.port p).watches.length ≤ 16

/-! ## Laws of the frames and the store (Chapter 2) -/

/-- The free pool holds exactly the FREE frames, each once (R20, R22). -/
def State.PoolLaw (s : State) : Prop := s.pool.Nodup ∧ ∀ pf, pf ∈ s.pool ↔ (s.frame pf).state = .free

/-- The store has its one form: rising addresses inside the array, no cell for a blank word. -/
def State.StoreLaw (s : State) : Prop := storeWf s.store = true

/-- No corrected count passes 15 (R28). -/
def State.CountLaw (s : State) : Prop := ∀ pf, (s.frame pf).corrected ≤ 15

/-! ## Laws of the sessions, the groups and the settings (Chapters 3, 7 and 9) -/

/-- The non-FREE sessions of a port (R43). -/
def State.sessionsOf (s : State) (p : PortId) : List Slot :=
  (List.finRange 8).filter fun slot => decide ((s.session slot).state ≠ .free) && decide ((s.session slot).port = some p)

/-- The non-FREE sessions of a port never outnumber its quota (R43). -/
def State.QuotaLaw (s : State) : Prop := ∀ p, (s.sessionsOf p).length ≤ s.settings.quotas[p]

/-- Every field of the settings record is in its range (R154). -/
def State.SettingsLaw (s : State) : Prop :=
  s.settings.scrubPeriod ≤ 1000 ∧ (1 ≤ s.settings.retireThreshold ∧ s.settings.retireThreshold ≤ 15) ∧
    (1 ≤ s.settings.defaultBudget ∧ s.settings.defaultBudget ≤ 4000) ∧ ∀ p : PortId, s.settings.quotas[p] ≤ 8

/-- A group is IDLE exactly when its member list is empty, and has a closer port exactly while CLOSING (R110, R111). -/
def State.GroupLaw (s : State) : Prop :=
  ∀ g, ((s.group g).state = .idle ↔ (s.group g).members = []) ∧
    ((s.group g).closer.isSome = true ↔ (s.group g).state = .closing)

/-! ## Laws of the Check Unit's lists (Chapter 8) -/

/-- The fault log holds at most 16 records, and the sequence numbers count up to the next one without a gap: the record i
places before the end of the log carries the next sequence number less i (R133). -/
def State.LogLaw (s : State) : Prop :=
  s.log.length ≤ 16 ∧
    s.log.reverse.map FaultRecord.seq = (List.range s.log.length).map fun i => s.nextSeq - BitVec.ofNat 16 (i + 1)

/-- The relocation list holds at most 4 pages and none twice (R140), and the write-back list at most 8 entries (R128). -/
def State.ListLaw (s : State) : Prop :=
  s.relocations.Nodup ∧ s.relocations.length ≤ 4 ∧ s.writeBacks.length ≤ 8

/-! ## The page map law (Chapters 1 to 8) -/

/-- The frames that the READ in service on a port holds pinned (R11, R25). -/
def PortRec.pinned (r : PortRec) : List PF :=
  match r.inService with
  | some ⟨_, _, .reading pins _ _⟩ => pins
  | _ => []

/-- How many operations hold a pin on a frame: READs in service, jobs that read it, the scrub read in flight (R25). -/
def State.holders (s : State) (pf : PF) : Nat :=
  ((List.finRange 4).map fun p => (s.port p).pinned.count pf).sum +
    (s.jobs.filter fun j => j.source? = some pf).length +
    (if s.scrub.map ScrubRead.frame = some pf then 1 else 0)

/-- How the page map, the frame records, the shadow lists, the copy queue, the wait list and the groups hang together: every
page maps a MAPPED frame that it owns (R2); the pool holds the FREE frames (R20, R22); a session's shadow frames are SHADOW,
its own and distinct, and it holds a page's claim exactly when it holds a shadow entry for it (R7, R37); a session job fills
a shadow of an OPEN session that is COPYING, one job a session (R39, R66); a COPY job reads a frame that is MAPPED and its
page's, or HELD (R25, R65, R73), and no frame has fewer pins than operations that hold one (R25, R26); a RELOCATE job reads the frame of a relocating
page and fills a MOVING frame, one at a time (R8, R141); a waiting session is OPEN and PARKED and waits once (R79, R80); and
a group's members are distinct sessions of that group (R110). -/
structure State.PageMapLaw (s : State) : Prop where
  pool          : s.PoolLaw
  mapped        : ∀ page, (s.frame (s.entry page).frame).state = .mapped ∧
    (s.frame (s.entry page).frame).owner = some (.page page)
  shadows       : ∀ slot, ∀ e ∈ (s.session slot).shadows,
    (s.frame e.frame).state = .shadow ∧ (s.frame e.frame).owner = some (.session slot)
  shadowFrames  : ∀ slot, ((s.session slot).shadows.map ShadowEntry.frame).Nodup
  shadowPages   : ∀ slot, ((s.session slot).shadows.map ShadowEntry.page).Nodup
  freeShadows   : ∀ slot, (s.session slot).state = .free → (s.session slot).shadows = []
  claims        : ∀ page slot, (s.entry page).claim = some slot ↔ ∃ e ∈ (s.session slot).shadows, e.page = page
  sessionJobs   : ∀ j ∈ s.jobs, ∀ slot, j.session? = some slot →
    (s.session slot).state = .opened ∧ (s.session slot).activity = .copying ∧
      ∃ e ∈ (s.session slot).shadows, e.page = j.page ∧ e.frame = j.target
  copySources   : ∀ j ∈ s.jobs, ∀ slot source write origin, j.kind = .copy slot source write origin →
    ((s.frame source).state = .mapped ∧ (s.frame source).owner = some (.page j.page)) ∨ (s.frame source).state = .held
  pins          : ∀ pf, s.holders pf ≤ (s.frame pf).pins
  oneJob        : (s.jobs.filterMap Job.session?).Nodup
  relocateJobs  : ∀ j ∈ s.jobs, ∀ source, j.kind = .relocate source →
    source = (s.entry j.page).frame ∧ (s.entry j.page).relocating = true ∧ (s.frame j.target).state = .moving
  oneRelocation : (s.jobs.filter Job.isRelocate).length ≤ 1
  waiters       : ∀ e ∈ s.waits, (s.session e.slot).state = .opened ∧ (s.session e.slot).activity = .parked
  oneWait       : (s.waits.map WaitEntry.slot).Nodup
  members       : ∀ g, (s.group g).members.Nodup ∧
    ∀ m ∈ (s.group g).members, (s.session m).state ≠ .free ∧ (s.session m).group = some g

/-! ## What only a device reset undoes -/

/-- A page frame after a step that is no device reset: RETIRED stays RETIRED, a set flag stays set, and the corrected count
does not fall (R21, R28, R29, R30). -/
def FrameRec.Ages (f f' : FrameRec) : Prop :=
  (f.state = .retired → f'.state = .retired) ∧ (f.retireOnRelease = true → f'.retireOnRelease = true) ∧
    f.corrected ≤ f'.corrected

/-! ## A port that takes a request at once -/

/-- A port that takes a request into service in the event that accepts it (R162, R164): READY, no frame in progress, a credit
left, nothing queued and nothing in service; and, as between events at every port, no other port with a request to take. -/
structure State.PortFree (s : State) (p : PortId) : Prop where
  ready   : (s.port p).ready = true
  wire    : (s.port p).wire = .idle
  credit  : 0 < (s.port p).credits
  queue   : (s.port p).requests = []
  service : (s.port p).inService = none
  others  : s.QueueLaw

/-- The port record after a REQUEST frame of n bytes past its code was accepted: the frame has ended, the status byte and
filler were shifted out, a credit is consumed (R160, R161, R162). -/
def PortRec.took (r : PortRec) (n : Nat) : PortRec :=
  { r with wire := .idle, sdo := r.statusByte :: List.replicate n 0x00#8, credits := r.credits - 1 }

/-- The number of bytes of a request's frame after the frame code: three, the parameters and the CRC (R174). -/
def requestSize (r : Request) : Nat := r.op.params.length + 4

/-- The state in which a port has a request in service that it took at once. -/
def State.serving (s : State) (p : PortId) (r : Request) (session : Option Slot) (stage : Stage) : State :=
  s.setPort p { (s.port p).took (requestSize r) with inService := some ⟨r, session, stage⟩ }

/-- The state in which a port has answered a request that it took and served at once: the response at the tail of its
response queue, ATTN as R157 has it, everything else as in s. -/
def State.answered (s : State) (p : PortId) (r : Request) (a : Answer) : State :=
  s.setPort p
    { (s.port p).took (requestSize r) with
      responses := (s.port p).responses ++ [⟨r.tag, a⟩]
      inService := none
      attn := s.settings.respMask[p] || (s.settings.noteMask[p] && !(s.port p).notices.isEmpty) }

/-- The row that carries a request (assumption 1). -/
def rowOf (p : PortId) (r : Request) : Instr :=
  match r.op with
  | .openSession group budget => .openSession p r.tag group budget
  | .abort handle => .abort p r.tag handle
  | .guard handle page version => .guard p r.tag handle page version
  | .read handle address length => .read p r.tag handle address length
  | .write handle address flags data => .write p r.tag handle address flags data
  | .commit handle => .commit p r.tag handle
  | .close group => .close p r.tag group
  | .pageInfo page => .pageInfo p r.tag page
  | .poolInfo => .poolInfo p r.tag
  | .sessInfo slot => .sessInfo p r.tag slot
  | .watch page => .watch p r.tag page
  | .unwatch page => .unwatch p r.tag page
  | .setConfig record => .setConfig p r.tag record
  | .getConfig => .getConfig p r.tag
  | .logRead seq => .logRead p r.tag seq

/-- The state after a port discarded a frame of n bytes past its code that shifted out filler alone (R163). -/
def State.discarded (s : State) (p : PortId) (n : Nat) (cause : DiscardCause) : State :=
  s.setPort p
    { s.port p with
      wire := .idle, sdo := (s.port p).statusByte :: List.replicate n 0x00#8, ferr := true, cause := cause }

/-! ## Events with nothing to follow them -/

/-- Nothing waits to follow an event: no relocation whose start conditions hold (R141), no request to take (R164). -/
def State.Quiet (s : State) : Prop := relocationDue s = none ∧ s.QueueLaw

/-- No request waits in any port's queue. -/
def State.NoneQueued (s : State) : Prop := ∀ p, (s.port p).requests = []

/-- A session's record after its session ended: the FREE values, the generation kept (R38). -/
def SessionRec.ended (r : SessionRec) : SessionRec :=
  { generation := r.generation, port := none, state := .free, group := none, budget := 0, activity := .idle,
    shadows := [], guards := [], parked := none, waitPage := none }

/-- What an event that ends sessions leaves alone: the store, the settings, the scrubber and the arbiter, the standing of every
session that does not end, and, at every port it does not clear, readiness, queue of requests, watches and discard status. -/
structure State.KeepsOthers (s t : State) (ended : Slot → Prop) (cleared : PortId → Prop) : Prop where
  store       : t.store = s.store
  settings    : t.settings = s.settings
  phase       : t.phase = s.phase
  lastGranted : t.lastGranted = s.lastGranted
  writeBacks  : t.writeBacks = s.writeBacks
  cursor      : t.cursor = s.cursor
  timer       : t.timer = s.timer
  scrub       : t.scrub = s.scrub
  pending     : t.pending = s.pending
  sessions    : ∀ slot, ¬ ended slot →
    (t.session slot).state = (s.session slot).state ∧ (t.session slot).generation = (s.session slot).generation ∧
      (t.session slot).port = (s.session slot).port ∧ (t.session slot).group = (s.session slot).group ∧
      (t.session slot).budget = (s.session slot).budget ∧ (t.session slot).guards = (s.session slot).guards
  ports       : ∀ q, ¬ cleared q →
    (t.port q).ready = (s.port q).ready ∧ (t.port q).requests = (s.port q).requests ∧
      (t.port q).watches = (s.port q).watches ∧ (t.port q).ferr = (s.port q).ferr ∧ (t.port q).cause = (s.port q).cause

/-- A session ends with another: it is that session, or a member of its group (R51). -/
def State.EndsWith (s : State) (slot first : Slot) : Prop :=
  slot = first ∨ ∃ g, (s.session first).group = some g ∧ slot ∈ (s.group g).members

/-- A session a port may act through: its handle names the slot, the port owns it (checks 1 and 2 of R42). -/
def State.Owns (s : State) (p : PortId) (handle : Handle) (slot : Slot) : Prop :=
  s.named handle = some slot ∧ (s.session slot).port = some p

/-- A session waits for another: it is PARKED on a page that the other holds (R81). -/
def State.WaitsFor (s : State) (waiter holder : Slot) : Prop :=
  (s.session waiter).activity = .parked ∧
    ∃ page, (s.session waiter).waitPage = some page ∧ (s.entry page).claim = some holder

/-- How many positions of the ring a grant passes over, after the position last granted, before a position (R33). -/
def ringDistance (last position : Nat) : Nat := (position + 6 + 6 * last) % 7

/-- The logical addresses of the bytes that a word access of a READ takes, in order (R13). -/
def ReadAccess.addresses (a : ReadAccess) : List Nat :=
  (List.range' a.first (a.last + 1 - a.first)).map fun n => a.page.val * 256 + a.word.val * 4 + n

end Sys2Proof.Machine
end

