-- ==== Sys2Proof/WellFormed.lean ====
section
/-! DEFINITION. Which commands a controller or the part itself can give: the checks on a command's operands. -/

namespace Sys2Proof

/-- The five frame codes of R172. -/
def knownFrameCodes : List Byte := [0x52, 0x46, 0x4E, 0x53, 0x5A]

/-- A WRITE request is carried by a frame only when its data are at most 64 bytes (R57, R162, R174). -/
def RequestOp.wellFormed : RequestOp → Bool
  | .write _ _ _ data => data.length ≤ Config.writeMax
  | .openSession _ _ | .abort _ | .guard _ _ _ | .read _ _ _ | .commit _ | .close _ | .pageInfo _ | .poolInfo | .sessInfo _
  | .watch _ | .unwatch _ | .setConfig _ | .getConfig | .logRead _ => true

/-- A command's operands are ones the wire can carry: a WRITE of at most 64 bytes, an unknown frame code that is none of
the five known ones (R172). -/
def Instr.wellFormed : Instr → Bool
  | .write _ _ handle address flags data => (RequestOp.write handle address flags data).wellFormed
  | .unknownFrameCode _ code _ => !knownFrameCodes.contains code
  | .deviceReset | .initializationSweep | .sweepEnd | .tick | .expiry
  | .request _ _ | .fetch _ _ | .note _ _ | .pstat _ _ | .preset _ _
  | .openSession _ _ _ _ | .abort _ _ _ | .guard _ _ _ _ _ | .read _ _ _ _ _ | .commit _ _ _ | .close _ _ _
  | .pageInfo _ _ _ | .poolInfo _ _ | .sessInfo _ _ _ | .watch _ _ _ | .unwatch _ _ _ | .setConfig _ _ _
  | .getConfig _ _ | .logRead _ _ _
  | .storeArbiterGrant _ | .readCompletion _ | .writePlacementEnd _ | .jobCompletion | .relocationSwitch
  | .relocationStart | .scrubVisit | .scrubReadEnd | .frameCodeByteEnd _ _ => true

end Sys2Proof
end

