-- ==== Sys2Proof/Certificates/Slice0/Obligations.lean ====
section
/-! DEFINITION. The statements about the Cemora 2440, each a proposition about every state it speaks of. `R<n>` names a
numbered rule of spec/. -/

open Sys2Proof Sys2Proof.Machine

/-! ## Steps, resets and the tick -/

/-- A step takes the command at the front of the queue and executes it with the queue's rest. That the block idles on an empty
queue is the model's own choice (log entry 4). -/
def Obligations.StepTakesFrontCommand : Prop :=
  (∀ (c : Instr) (rest : List Instr) (s : State),
    step { s with pending := c :: rest } = exec c { s with pending := rest }) ∧
  ∀ s : State, step { s with pending := [] } = .next { s with pending := [] }

/-- What a device reset leaves, field by field (R3, R19, R22, R33, R37, R66, R79, R110, R128, R133, R137, R140, R154, R158),
and every law that later steps keep. That the wire is idle and no byte recorded is the model's choice (log entries 13, 20). -/
def Obligations.ResetState : Prop :=
  (∀ page : LP, State.reset.entry page =
      { frame := page.castLE (by decide), version := 0, condition := .normal, claim := none, relocating := false }) ∧
  (∀ pf : PF, State.reset.frame pf =
      if h : pf.val < 256 then
        { state := .mapped, owner := some (.page ⟨pf.val, h⟩), pins := 0, corrected := 0, retireOnRelease := false }
      else { state := .free, owner := none, pins := 0, corrected := 0, retireOnRelease := false }) ∧
  State.reset.pool.map Fin.val = List.range' 256 256 ∧
  (∀ slot : Slot, State.reset.session slot = SessionRec.ended { SessionRec.reset with generation := 0 }) ∧
  (∀ g : GroupIx, State.reset.group g = { state := .idle, members := [], closer := none }) ∧
  (∀ p : PortId, State.reset.port p =
      { ready := false, credits := 4, requests := [], inService := none, responses := [], ferr := false, cause := .none,
        notices := [], overrun := false, watches := [], attn := false, wire := .idle, sdo := [] }) ∧
  (State.reset.settings.scrubPeriod = 20 ∧ State.reset.settings.retireThreshold = 3 ∧
    State.reset.settings.defaultBudget = 500 ∧
    ∀ p : PortId, State.reset.settings.quotas[p] = 2 ∧ State.reset.settings.respMask[p] = true ∧
      State.reset.settings.noteMask[p] = true ∧ State.reset.settings.faultNotices[p] = false) ∧
  (State.reset.waits = [] ∧ State.reset.jobs = [] ∧ State.reset.relocations = [] ∧ State.reset.writeBacks = [] ∧
    State.reset.log = [] ∧ State.reset.nextSeq = 0 ∧ State.reset.lastGranted = 7 ∧ State.reset.cursor = 0 ∧
    State.reset.scrub = none) ∧
  State.reset.CreditLaw ∧ State.reset.QueueLaw ∧ State.reset.AttnLaw ∧ State.reset.NoticeLaw ∧ State.reset.WatchLaw ∧
  State.reset.PoolLaw ∧ State.reset.StoreLaw ∧ State.reset.CountLaw ∧ State.reset.QuotaLaw ∧ State.reset.SettingsLaw ∧
  State.reset.GroupLaw ∧ State.reset.LogLaw ∧ State.reset.ListLaw ∧ State.reset.PageMapLaw

/-- A device reset returns every record, list and queue to its reset value and leaves the store as it stands (R3, R19, R22,
R31, R33, R35, R37, R66, R110, R128, R133, R137, R140, R154, R158), and ends a frame in progress on a port without judging it
(R159). The empty record of bytes shifted out and the stopped timer are values the model names (log entries 13, 20); the
standing, RSTN asserted, is its own field (log entry 11), and so is the kept queue of commands (log entry 4). -/
def Obligations.DeviceResetReturnsRecords : Prop :=
  ∀ s : State, ∃ t : State, exec .deviceReset s = .next t ∧
    t.map = State.reset.map ∧ t.waits = [] ∧ t.frames = State.reset.frames ∧ t.pool = State.reset.pool ∧
    t.sessions = State.reset.sessions ∧ t.groups = State.reset.groups ∧ t.jobs = [] ∧ t.relocations = [] ∧
    t.writeBacks = [] ∧ t.log = [] ∧ t.nextSeq = 0 ∧ t.lastGranted = 7 ∧ t.cursor = 0 ∧ t.scrub = none ∧
    t.timer = none ∧ t.phase = .inReset ∧ t.settings = State.reset.settings ∧
    (∀ p, t.port p =
      { State.reset.port p with wire := if (s.port p).wire = .idle then .idle else .disregarded }) ∧
    t.store = s.store ∧ t.pending = s.pending

/-- The initialization sweep writes every word of every page frame with zero data and the check bits of zero data, and its end
makes every port READY and starts the scrub period timer; each changes nothing else (R35, R137). That the whole sweep is
one command is the model's choice (log entry 10). -/
def Obligations.SweepAndItsEnd : Prop :=
  (∀ s : State, s.phase = .inReset →
    ∃ t : State, exec .initializationSweep s = .next t ∧
      (∀ pf k, t.word pf k = { bits := 0, diff := 0 } ∧ (t.word pf k).decode = .clean 0) ∧
      t = { s with phase := .sweeping, store := t.store }) ∧
  ∀ s : State, s.phase = .sweeping →
    ∃ t : State, exec .sweepEnd s = .next t ∧
      (∀ p, t.port p = { s.port p with ready := true }) ∧
      t.timer = (if s.settings.scrubPeriod = 0 then none else some s.settings.scrubPeriod) ∧
      t = { s with phase := .running, ports := t.ports, timer := t.timer }

/-- A tick lowers the budget of every non-FREE session by one and the scrub period timer by one, and does nothing else while no
budget and no period runs out in it (R45, R137). The sessions whose budget a tick brings to 0 are FREE at its end, their
generation kept and their handles stale, and so are those that EXPIRY finds at 0 (R46, R38, R42). An expiry of one ungrouped
session is told to its port: in the response of the request in service that names it, ABORTED with reason EXPIRED, or else by
a SESSION_ABORTED notice with the handle and reason EXPIRED, dropped with the overrun flag set at a full queue (R46, R50,
R147). That EXPIRY may also be given by itself is the model's reading (log entry 3). -/
def Obligations.TickCountsAndExpires : Prop :=
  (∀ s : State, s.Quiet → (∀ slot, (s.session slot).state ≠ .free → 2 ≤ (s.session slot).budget) →
    (∀ n, s.timer = some n → 2 ≤ n) →
    ∃ t : State, exec .tick s = .next t ∧
      (∀ slot, t.session slot =
        { s.session slot with
          budget := if (s.session slot).state = .free then (s.session slot).budget else (s.session slot).budget - 1 }) ∧
      t = { s with sessions := t.sessions, timer := s.timer.map (· - 1) }) ∧
  (∀ s : State, s.NoneQueued → ∃ t : State, exec .tick s = .next t ∧
    ∀ slot, (s.session slot).state ≠ .free → (s.session slot).budget ≤ 1 →
      (t.session slot).state = .free ∧ (t.session slot).generation = (s.session slot).generation ∧
        t.named (s.handle slot) = none) ∧
  (∀ s : State, s.NoneQueued → ∃ t : State, exec .expiry s = .next t ∧
    (∀ slot, (s.session slot).state ≠ .free → (s.session slot).budget = 0 →
      (t.session slot).state = .free ∧ (t.session slot).generation = (s.session slot).generation ∧
        t.named (s.handle slot) = none) ∧
    s.KeepsOthers t
      (fun slot => ∃ first, (s.session first).state ≠ .free ∧ (s.session first).budget = 0 ∧ s.EndsWith slot first)
      (fun _ => False)) ∧
  ∀ (c : Instr) (n : Nat) (p : PortId) (slot : Slot) (s : State), (c = .tick ∧ n = 1) ∨ (c = .expiry ∧ n = 0) →
    s.QueueLaw → (s.session slot).state ≠ .free → (s.session slot).budget ≤ n → (s.session slot).port = some p →
    (s.session slot).group = none →
    (∀ other, other ≠ slot → (s.session other).state ≠ .free → n < (s.session other).budget) →
    (∀ w ∈ s.waits, ∀ e ∈ (s.session slot).shadows, w.page ≠ e.page) → s.settings.faultNotices[p] = false →
    (s.port p).requests = [] →
    ∃ t : State, exec c s = .next t ∧
      ((∀ r, (s.port p).inService = some r → r.session = some slot → isAbortOp r.request.op = true) →
        (t.port p).responses = (s.port p).responses ∧ (t.port p).inService = (s.port p).inService ∧
        ((s.port p).notices.length < 8 →
          (t.port p).notices =
            (s.port p).notices ++ [⟨.sessionAborted (s.handle slot) .expired, (s.port p).overrun⟩] ∧
          (t.port p).overrun = false) ∧
        (8 ≤ (s.port p).notices.length →
          (t.port p).notices = (s.port p).notices ∧ (t.port p).overrun = true)) ∧
      ∀ r, (s.port p).inService = some r → r.session = some slot → isAbortOp r.request.op = false →
        (t.port p).responses = (s.port p).responses ++ [⟨r.request.tag, .aborted .expired⟩] ∧
        (t.port p).inService = none ∧ (t.port p).notices = (s.port p).notices ∧
        (t.port p).overrun = (s.port p).overrun

/-- An event of the part that is commanded while the condition it follows does not stand is not taken and changes nothing. This
is the model's own choice (log entry 2). -/
def Obligations.EventNotDueChangesNothing : Prop :=
  ∀ s : State,
    (s.phase ≠ .inReset → exec .initializationSweep s = .next s) ∧
    (s.phase ≠ .sweeping → exec .sweepEnd s = .next s) ∧
    (∀ p, (∀ r session pins data, (s.port p).inService ≠ some ⟨r, session, .reading pins [] data⟩) →
      exec (.readCompletion p) s = .next s) ∧
    (∀ p, (∀ r session pf write zeroed, (s.port p).inService ≠ some ⟨r, session, .placing pf write [] zeroed⟩) →
      exec (.writePlacementEnd p) s = .next s) ∧
    ((∀ job rest, s.jobs = job :: rest → job.progress ≠ .place [] ∨ job.isRelocate = true) →
      exec .jobCompletion s = .next s) ∧
    ((∀ job rest, s.jobs = job :: rest → job.progress ≠ .place [] ∨ job.isRelocate = false) →
      exec .relocationSwitch s = .next s) ∧
    (s.relocations = [] → exec .relocationStart s = .next s) ∧
    (s.timer ≠ some 0 ∨ s.scrub ≠ none → exec .scrubVisit s = .next s) ∧
    ((∀ r, s.scrub = some r → r.next < 64) → exec .scrubReadEnd s = .next s) ∧
    ∀ flips, (∀ c, 1 ≤ c → c ≤ 7 → clientWaits s c = false) → exec (.storeArbiterGrant flips) s = .next s

/-! ## Frames on a host port -/

/-- The frame that carries a request is read back as that request: no parameter of any of the fifteen requests is lost or
changed on the wire (R162, R173, R174, R175). -/
def Obligations.RequestFrameRoundTrip : Prop :=
  ∀ r : Request, r.op.wellFormed = true → judgeRequest (encodeRequest r) = .ok r

/-- A REQUEST frame with the bytes of a request does what the row of that request does. That a request row is the release of its
frame is the model's reading of the table (log entry 1). -/
def Obligations.RequestFrameRunsItsRow : Prop :=
  ∀ (p : PortId) (r : Request) (s : State), r.op.wellFormed = true →
    exec (.request p (encodeRequest r)) s = exec (rowOf p r) s

/-- The five checks of a REQUEST frame at its release, in their order, each with its discard cause; a discarded frame changes
its port's discard status alone (R162, R163, R175). That a WRITE of more than 64 bytes fails LENGTH is the model's reading (log
entry 17). -/
def Obligations.RequestDiscardOrder : Prop :=
  ∀ (p : PortId) (sent : List Byte) (s : State), (s.port p).wire = .idle →
    ((s.port p).ready = false → exec (.request p sent) s = .next (s.discarded p sent.length .notReady)) ∧
    ((s.port p).ready = true → (sent.length < 3 ∨ sent.length < 4 + (sent.getD 2 0).toNat) →
      exec (.request p sent) s = .next (s.discarded p sent.length .truncated)) ∧
    ((s.port p).ready = true → 4 + (sent.getD 2 0).toNat ≤ sent.length →
      ((parseOp (sent.getD 0 0) ((sent.drop 3).take (sent.getD 2 0).toNat) = none ∨
          4 + (sent.getD 2 0).toNat < sent.length) →
        exec (.request p sent) s = .next (s.discarded p sent.length .length)) ∧
      ∀ op, parseOp (sent.getD 0 0) ((sent.drop 3).take (sent.getD 2 0).toNat) = some op →
        sent.length = 4 + (sent.getD 2 0).toNat →
        (sent.getLast? ≠ some (crc8 sent.dropLast) →
          exec (.request p sent) s = .next (s.discarded p sent.length .crc)) ∧
        (sent.getLast? = some (crc8 sent.dropLast) → (s.port p).credits = 0 →
          exec (.request p sent) s = .next (s.discarded p sent.length .noCredit)))

/-- A request accepted while another is in service on its port consumes a credit and waits at the tail of the request queue
(R162, R164). -/
def Obligations.RequestQueuedBehindService : Prop :=
  ∀ (p : PortId) (r : Request) (s : State), r.op.wellFormed = true → (s.port p).ready = true →
    (s.port p).wire = .idle → 0 < (s.port p).credits → (s.port p).inService ≠ none → s.QueueLaw →
    exec (.request p (encodeRequest r)) s =
      .next (s.setPort p { (s.port p).took (requestSize r) with requests := (s.port p).requests ++ [r] })

/-- A FETCH with the right check byte that clocks the head response out whole removes it and returns a credit, and a NOTE so
removes the head notice; ATTN is re-evaluated, and the bytes shifted out are the status byte, the record and filler
(R160, R161, R166, R167). -/
def Obligations.CompletedFetchAndNote : Prop :=
  (∀ (p : PortId) (more : List Byte) (s : State) (r : Response) (rest : List Response), (s.port p).wire = .idle →
    (s.port p).responses = r :: rest → r.bytes.length ≤ more.length + 1 →
    exec (.fetch p (0xFF#8 :: more)) s = .next (s.setPort p
      { s.port p with
        wire := .idle
        sdo := (s.port p).statusByte :: (r.bytes ++ List.replicate (more.length + 1 - r.bytes.length) 0x00#8)
        responses := rest
        credits := (s.port p).credits + 1
        attn := (s.settings.respMask[p] && !rest.isEmpty) || (s.settings.noteMask[p] && !(s.port p).notices.isEmpty) })) ∧
  ∀ (p : PortId) (more : List Byte) (s : State) (n : Notice) (rest : List Notice), (s.port p).wire = .idle →
    (s.port p).notices = n :: rest → n.bytes.length ≤ more.length + 1 →
    exec (.note p (0xFF#8 :: more)) s = .next (s.setPort p
      { s.port p with
        wire := .idle
        sdo := (s.port p).statusByte :: (n.bytes ++ List.replicate (more.length + 1 - n.bytes.length) 0x00#8)
        notices := rest
        attn := (s.settings.respMask[p] && !(s.port p).responses.isEmpty) || (s.settings.noteMask[p] && !rest.isEmpty) })

/-- A PSTAT with the right check byte that clocks out the ten bytes of the status detail and its CRC clears FERR and the last
discard cause, and nothing else (R168, R177). -/
def Obligations.CompletedPstat : Prop :=
  ∀ (p : PortId) (more : List Byte) (s : State), (s.port p).wire = .idle → 10 ≤ more.length →
    exec (.pstat p (0xFF#8 :: more)) s = .next (s.setPort p
      { s.port p with
        wire := .idle
        sdo := (s.port p).statusByte :: ((s.port p).detail ++ List.replicate (more.length - 10) 0x00#8)
        ferr := false
        cause := .none })

/-- A FETCH or NOTE cut short, or with nothing to clock out, a PSTAT cut short, and any of the four frames released after its
frame code alone, change nothing but the bytes shifted out (R161, R166, R167, R168). One with a wrong check byte is discarded
with cause CRC, one with an unknown frame code with cause FRAME_CODE (R161, R163). -/
def Obligations.FramesThatCompleteNothing : Prop :=
  ∀ (p : PortId) (s : State), (s.port p).wire = .idle →
    (∀ c, c = Instr.fetch p [] ∨ c = .note p [] ∨ c = .pstat p [] ∨ c = .preset p [] →
      exec c s = .next (s.setPort p { s.port p with sdo := [(s.port p).statusByte] })) ∧
    (∀ more c, (c = Instr.fetch p (0xFF#8 :: more) ∧
          ∀ r rest, (s.port p).responses = r :: rest → more.length + 1 < r.bytes.length) ∨
        (c = Instr.note p (0xFF#8 :: more) ∧
          ∀ n rest, (s.port p).notices = n :: rest → more.length + 1 < n.bytes.length) ∨
        (c = Instr.pstat p (0xFF#8 :: more) ∧ more.length < 10) →
      ∃ out, exec c s = .next (s.setPort p { s.port p with sdo := out })) ∧
    (∀ check more c, check ≠ 0xFF#8 →
        c = Instr.fetch p (check :: more) ∨ c = .note p (check :: more) ∨ c = .pstat p (check :: more) ∨
          c = .preset p (check :: more) →
      ∃ out, exec c s = .next (s.setPort p { s.port p with sdo := out, ferr := true, cause := .crc })) ∧
    ∀ code sent, code ∉ knownFrameCodes →
      exec (.unknownFrameCode p code sent) s = .next (s.discarded p sent.length .frameCode)

/-- The status byte is the one at the assertion of CSN and the record the one at the end of the frame code byte: the head
response, the head notice, the status detail, an empty record where a queue holds nothing, or filler alone (R160, R166, R167,
R168, R178). A FETCH, NOTE or PSTAT shifts out what was fixed then, whatever has joined or changed since; at its release it
completes exactly where the record was the port's and all of it was clocked out with the right check byte, and else changes
nothing but the bytes shifted out, a wrong check byte being a discard with cause CRC (R161, R163, R166, R167, R168). A port
whose frame a device reset ended disregards the wire until CSN is released (R159). That the assertion of CSN is given as a
part of FRAME_CODE_BYTE_END, and that a frame given without either end begins there and then, is the model's choice (log
entry 12). -/
def Obligations.FrameCodeFixesRecord : Prop :=
  (∀ (p : PortId) (s : State), exec (.frameCodeByteEnd p .csnAsserted) s =
    .next (s.setPort p { s.port p with wire := .begun (s.port p).statusByte, sdo := [] })) ∧
  (∀ (p : PortId) (s : State) (status : Byte),
    (s.port p).wire = .begun status ∨ ((s.port p).wire = .idle ∧ status = (s.port p).statusByte) →
    let fixes := fun (code : Byte) (record : List Byte) (held : Bool) =>
      exec (.frameCodeByteEnd p (.codeByteEnd code)) s =
        .next (s.setPort p { s.port p with wire := .coded status code record held, sdo := [status] })
    (∀ r rest, (s.port p).responses = r :: rest → fixes 0x46 r.bytes true) ∧
    ((s.port p).responses = [] → fixes 0x46 [0, 0, 0, 0, crc8 [0, 0, 0, 0]] false) ∧
    (∀ n rest, (s.port p).notices = n :: rest → fixes 0x4E n.bytes true) ∧
    ((s.port p).notices = [] → fixes 0x4E [0, 0, 0, crc8 [0, 0, 0]] false) ∧
    fixes 0x53 (s.port p).detail true ∧
    ∀ code, code ≠ 0x46#8 → code ≠ 0x4E#8 → code ≠ 0x53#8 → fixes code [] false) ∧
  (∀ (p : PortId) (s : State) (status : Byte) (code : Byte) (record : List Byte) (held : Bool),
    (s.port p).wire = .coded status code record held →
    let shifted := fun n => status :: (record.take n ++ List.replicate (n - record.length) 0x00#8)
    let ended := fun n : Nat => { s.port p with wire := .idle, sdo := shifted n }
    ∀ frame : List Byte → Instr,
      (code = 0x46#8 ∧ frame = .fetch p) ∨ (code = 0x4E#8 ∧ frame = .note p) ∨ (code = 0x53#8 ∧ frame = .pstat p) →
      exec (frame []) s = .next (s.setPort p (ended 0)) ∧
      (∀ check more, check ≠ 0xFF#8 →
        exec (frame (check :: more)) s =
          .next (s.setPort p { ended (more.length + 1) with ferr := true, cause := .crc })) ∧
      ∀ more : List Byte,
        (held = false ∨ more.length + 1 < record.length →
          exec (frame (0xFF#8 :: more)) s = .next (s.setPort p (ended (more.length + 1)))) ∧
        (held = true → record.length ≤ more.length + 1 →
          (∀ r rest, code = 0x46#8 → (s.port p).responses = r :: rest →
            exec (frame (0xFF#8 :: more)) s = .next (s.setPort p
              { ended (more.length + 1) with
                responses := rest
                credits := (s.port p).credits + 1
                attn := (s.settings.respMask[p] && !rest.isEmpty) ||
                  (s.settings.noteMask[p] && !(s.port p).notices.isEmpty) })) ∧
          (∀ n rest, code = 0x4E#8 → (s.port p).notices = n :: rest →
            exec (frame (0xFF#8 :: more)) s = .next (s.setPort p
              { ended (more.length + 1) with
                notices := rest
                attn := (s.settings.respMask[p] && !(s.port p).responses.isEmpty) ||
                  (s.settings.noteMask[p] && !rest.isEmpty) })) ∧
          (code = 0x53#8 →
            exec (frame (0xFF#8 :: more)) s = .next (s.setPort p
              { ended (more.length + 1) with ferr := false, cause := .none })))) ∧
  ∀ (p : PortId) (s : State), (s.port p).wire = .disregarded →
    (∀ code, exec (.frameCodeByteEnd p (.codeByteEnd code)) s = .next s) ∧
    ∀ sent c, c = Instr.request p sent ∨ c = .fetch p sent ∨ c = .note p sent ∨ c = .pstat p sent ∨ c = .preset p sent ∨
        (∃ code, code ∉ knownFrameCodes ∧ c = .unknownFrameCode p code sent) →
      exec c s = .next (s.setPort p { s.port p with wire := .idle })

/-- A PRESET with the right check byte on a READY port resets the port's record, ends every session of the port, and changes no
page's frame, version or condition and no setting (R3, R54, R154, R158, R170). On a port that is NOT_READY it changes nothing
but the bytes shifted out (R170). -/
def Obligations.PortReset : Prop :=
  (∀ (p : PortId) (more : List Byte) (s : State), (s.port p).wire = .idle → (s.port p).ready = true →
    (∀ q, q ≠ p → (s.port q).requests = []) →
    ∃ t : State, exec (.preset p (0xFF#8 :: more)) s = .next t ∧
      t.port p = { PortRec.reset with
        ready := true, sdo := (s.port p).statusByte :: List.replicate (more.length + 1) 0x00#8 } ∧
      (∀ slot, (s.session slot).state ≠ .free → (s.session slot).port = some p →
        (t.session slot).state = .free ∧ (t.session slot).generation = (s.session slot).generation) ∧
      (∀ page, (t.entry page).frame = (s.entry page).frame ∧ (t.entry page).version = (s.entry page).version ∧
        (t.entry page).condition = (s.entry page).condition) ∧
      s.KeepsOthers t (fun slot => ∃ first, (s.session first).port = some p ∧ s.EndsWith slot first) (· = p)) ∧
  ∀ (p : PortId) (more : List Byte) (s : State), (s.port p).wire = .idle → (s.port p).ready = false →
    exec (.preset p (0xFF#8 :: more)) s = .next (s.setPort p
      { s.port p with sdo := (s.port p).statusByte :: List.replicate (more.length + 1) 0x00#8 })

/-! ## Sessions -/

/-- OPEN: its four refusals in their order, each changing nothing but the port's response; and the session it creates in the
lowest-numbered FREE slot, which joins the group it names (R43, R44, R41, R45, R112). -/
def Obligations.OpenCreatesSession : Prop :=
  ∀ (p : PortId) (tag group : Byte) (budget : BitVec 16) (s : State), s.PortFree p →
    let r : Request := ⟨tag, .openSession group budget⟩
    let closing := ∃ g : GroupIx, group.toNat = g.val + 1 ∧ (s.group g).state = .closing
    let fits := (s.sessionsOf p).length < s.settings.quotas[p]
    (4 < group.toNat ∨ 4000 < budget.toNat →
      exec (.openSession p tag group budget) s = .next (s.answered p r .badValue)) ∧
    (group.toNat ≤ 4 → budget.toNat ≤ 4000 →
      (¬ fits → exec (.openSession p tag group budget) s = .next (s.answered p r .quota)) ∧
      (fits → (∀ slot, (s.session slot).state ≠ .free) →
        exec (.openSession p tag group budget) s = .next (s.answered p r .noSession)) ∧
      (fits → (∃ slot, (s.session slot).state = .free) → closing →
        exec (.openSession p tag group budget) s = .next (s.answered p r .groupClosed)) ∧
      ∀ slot, fits → (s.session slot).state = .free → (∀ lower < slot, (s.session lower).state ≠ .free) → ¬ closing →
        let record : SessionRec :=
          { generation := (s.session slot).generation + 1, port := some p, state := .opened,
            group := if h : 1 ≤ group.toNat ∧ group.toNat ≤ 4 then some ⟨group.toNat - 1, by omega⟩ else none,
            budget := if budget = 0 then s.settings.defaultBudget else budget.toNat, activity := .idle, shadows := [],
            guards := [], parked := none, waitPage := none }
        let handle : Handle := handleOf ((s.session slot).generation + 1) slot
        (group = 0 → exec (.openSession p tag group budget) s =
          .next ((s.setSession slot record).answered p r (.openedOk handle))) ∧
        ∀ g : GroupIx, group.toNat = g.val + 1 → exec (.openSession p tag group budget) s =
          .next (((s.setSession slot record).setGroup g
            { s.group g with
              members := (s.group g).members ++ [slot]
              state := if (s.group g).state = .idle then .gathering else (s.group g).state }).answered p r
            (.openedOk handle)))

/-- The common handle checks: a handle that names no session is refused STALE, another port's session NOT_OWNER, and for GUARD,
WRITE and COMMIT a session that is not OPEN NOT_OPEN, in that order; the refusal changes no state (R42). -/
def Obligations.HandleChecks : Prop :=
  ∀ (p : PortId) (tag : Byte) (handle : Handle) (s : State), s.PortFree p →
    ∀ (r : Request) (mustBeOpen : Prop), r.op.wellFormed = true →
      (r = ⟨tag, .abort handle⟩ ∧ ¬ mustBeOpen) ∨
      (∃ address length, r = ⟨tag, .read handle address length⟩ ∧ handle ≠ 0x80#8 ∧ ¬ mustBeOpen) ∨
      ((∃ page version, r = ⟨tag, .guard handle page version⟩) ∧ mustBeOpen) ∨
      ((∃ address flags data, r = ⟨tag, .write handle address flags data⟩) ∧ mustBeOpen) ∨
      (r = ⟨tag, .commit handle⟩ ∧ mustBeOpen) →
      (s.named handle = none → exec (rowOf p r) s = .next (s.answered p r .stale)) ∧
      ∀ slot, s.named handle = some slot →
        ((s.session slot).port ≠ some p → exec (rowOf p r) s = .next (s.answered p r .notOwner)) ∧
        ((s.session slot).port = some p → mustBeOpen → (s.session slot).state ≠ .opened →
          exec (rowOf p r) s = .next (s.answered p r .notOpen))

/-- ABORT of an ungrouped session ends it: the slot takes its FREE values with its generation kept, and the ABORT is answered OK
with no notice of its own (R38, R48, R50, R53). A session that is IDLE, with no writer waiting and no relocation listed,
gives its SHADOW frames back to the pool tail in shadow-list order, each page's claim cleared (R24, R48). Where writers wait for
its page, the released claim goes to the oldest of them with the frame at the pool head, a shadow entry and a job, the others
waiting on (R65, R84, R85); at an empty pool every waiter of the page in turn fails with WRITE_FAILED(NO_PAGE), its wait ended,
and the page is left unclaimed (R84, R87). -/
def Obligations.AbortEndsSession : Prop :=
  ∀ (p : PortId) (tag : Byte) (handle : Handle) (slot : Slot) (s : State), s.PortFree p → s.Owns p handle slot →
    (s.session slot).group = none →
    ∃ t : State, exec (.abort p tag handle) s = .next t ∧
      t.session slot = (s.session slot).ended ∧
      s.KeepsOthers t (· = slot) (fun _ => False) ∧ t.groups = s.groups ∧
      (t.port p).responses = (s.port p).responses ++ [⟨tag, .done⟩] ∧ (t.port p).inService = none ∧
      (t.port p).credits = (s.port p).credits - 1 ∧
      ((s.session slot).activity = .idle → (∀ j ∈ s.jobs, j.session? ≠ some slot) → s.waits = [] → s.relocations = [] →
        ((s.session slot).shadows.map ShadowEntry.frame).Nodup →
        (∀ e ∈ (s.session slot).shadows,
          (s.frame e.frame).state = .shadow ∧ (s.frame e.frame).pins = 0 ∧ (s.frame e.frame).retireOnRelease = false) →
        t.pool = s.pool ++ (s.session slot).shadows.map ShadowEntry.frame ∧
        (∀ e ∈ (s.session slot).shadows, (t.frame e.frame).state = .free ∧ (t.frame e.frame).owner = none ∧
          (t.entry e.page).claim = none) ∧
        (∀ pf, (∀ e ∈ (s.session slot).shadows, e.frame ≠ pf) → t.frame pf = s.frame pf) ∧
        (∀ page, (∀ e ∈ (s.session slot).shadows, e.page ≠ page) → t.entry page = s.entry page) ∧
        (t.port p).notices = (s.port p).notices ∧ t.log = s.log ∧ t.jobs = s.jobs) ∧
      (∀ e w parked pf rest before after, (s.session slot).activity = .idle → (∀ j ∈ s.jobs, j.session? ≠ some slot) →
        s.relocations = [] → (s.session slot).shadows = [e] → (s.frame e.frame).state = .shadow →
        (s.frame e.frame).pins = 0 → (s.frame e.frame).retireOnRelease = false →
        s.waits = before ++ ⟨w, e.page⟩ :: after → (∀ b ∈ before, b.page ≠ e.page) →
        (∀ b ∈ before ++ after, b.slot ≠ w) → w ≠ slot → (s.session w).parked = some parked →
        s.pool ++ [e.frame] = pf :: rest → (pf = e.frame ∨ (s.frame pf).state = .free) →
        (s.frame (s.entry e.page).frame).state = .mapped →
        let source := (s.entry e.page).frame
        let write : PendingWrite := { offset := parked.address.toNat % 256, data := parked.data }
        t.entry e.page = { s.entry e.page with claim := some w } ∧
        (∀ page, page ≠ e.page → t.entry page = s.entry page) ∧
        t.waits = before ++ after ∧ t.pool = rest ∧
        t.session w =
          { s.session w with
            shadows := (s.session w).shadows ++ [⟨e.page, pf, decide ((s.entry e.page).condition = .poisoned)⟩]
            activity := .copying, parked := none, waitPage := none } ∧
        t.frame pf = { s.frame pf with state := .shadow, owner := some (.session w) } ∧
        (e.frame ≠ pf → t.frame e.frame = { s.frame e.frame with state := .free, owner := none }) ∧
        ((s.entry e.page).condition = .normal →
          t.jobs = s.jobs ++ [⟨.copy w source write .granted, e.page, pf, .fillRead 0⟩] ∧
          t.frame source = { s.frame source with pins := (s.frame source).pins + 1 }) ∧
        ((s.entry e.page).condition = .poisoned →
          t.jobs = s.jobs ++ [⟨.zero w write .granted, e.page, pf, .fillWrite 0 0⟩] ∧
          t.frame source = s.frame source) ∧
        (∀ other, other ≠ pf → other ≠ e.frame → other ≠ source → t.frame other = s.frame other) ∧
        (∀ q, (t.port q).notices = (s.port q).notices) ∧ t.log = s.log) ∧
      ∀ e, (s.session slot).activity = .idle → (∀ j ∈ s.jobs, j.session? ≠ some slot) → s.relocations = [] →
        (s.session slot).shadows = [e] → (s.frame e.frame).state = .shadow → 0 < (s.frame e.frame).pins →
        s.pool = [] → (s.waits.map WaitEntry.slot).Nodup → slot ∉ s.waits.map WaitEntry.slot →
        let waiters := (s.waits.filter fun w => w.page = e.page).map WaitEntry.slot
        t.entry e.page = { s.entry e.page with claim := none } ∧
        (∀ page, page ≠ e.page → t.entry page = s.entry page) ∧
        t.waits = s.waits.filter (fun w => w.page ≠ e.page) ∧ t.pool = [] ∧ t.jobs = s.jobs ∧ t.log = s.log ∧
        t.frame e.frame = { s.frame e.frame with state := .held, owner := none } ∧
        (∀ other, other ≠ e.frame → t.frame other = s.frame other) ∧
        (∀ w ∈ waiters, t.session w =
          { s.session w with activity := .idle, parked := none, waitPage := none }) ∧
        (∀ w, w ≠ slot → w ∉ waiters → t.session w = s.session w) ∧
        ∀ q, let told := waiters.filter fun w => (s.session w).port = some q
          (s.port q).notices.length + told.length ≤ 8 →
          (t.port q).notices.map Notice.body =
            (s.port q).notices.map Notice.body ++ told.map fun w => .writeFailed (s.handle w) .noPage

/-- GUARD replaces the expected version of a page's entry in place, or appends an entry while fewer than 16 are held, or is
refused LIMIT; in every activity, and changing nothing else (R40, R94). -/
def Obligations.GuardRecordsVersion : Prop :=
  ∀ (p : PortId) (tag : Byte) (handle : Handle) (page : LP) (version : BitVec 16) (slot : Slot) (s : State),
    s.PortFree p → s.Owns p handle slot → (s.session slot).state = .opened →
    let r : Request := ⟨tag, .guard handle page version⟩
    let guards := (s.session slot).guards
    (∀ before g after, guards = before ++ g :: after → g.page = page →
      (∀ other ∈ before ++ after, other.page ≠ page) →
      exec (.guard p tag handle page version) s =
        .next ((s.setSession slot
          { s.session slot with guards := before ++ ⟨page, version⟩ :: after }).answered p r .done)) ∧
    ((∀ g ∈ guards, g.page ≠ page) → guards.length < 16 →
      exec (.guard p tag handle page version) s =
        .next ((s.setSession slot
          { s.session slot with guards := guards ++ [⟨page, version⟩] }).answered p r .done)) ∧
    ((∀ g ∈ guards, g.page ≠ page) → 16 ≤ guards.length →
      exec (.guard p tag handle page version) s = .next (s.answered p r .limit))

/-! ## Reports, watches and settings -/

/-- PAGEINFO, POOLINFO and SESSINFO report one record at one instant and change no state; SESSINFO of a slot above 7 is refused
BAD_VALUE (R18, R36, R55). -/
def Obligations.ReportsChangeNothing : Prop :=
  ∀ (p : PortId) (tag : Byte) (s : State), s.PortFree p →
    (∀ page : LP, exec (.pageInfo p tag page) s =
      .next (s.answered p ⟨tag, .pageInfo page⟩ (.pageInfo
        { page := page, frame := (s.entry page).frame, version := (s.entry page).version,
          condition := (s.entry page).condition, claim := (s.entry page).claim.map s.handle,
          relocating := (s.entry page).relocating, parked := (s.waits.filter fun w => w.page = page).length }))) ∧
    (exec (.poolInfo p tag) s =
      .next (s.answered p ⟨tag, .poolInfo⟩ (.poolInfo
        { free := (s.frames.toList.filter fun f => f.state = .free).length
          mapped := (s.frames.toList.filter fun f => f.state = .mapped).length
          shadow := (s.frames.toList.filter fun f => f.state = .shadow).length
          held := (s.frames.toList.filter fun f => f.state = .held).length
          moving := (s.frames.toList.filter fun f => f.state = .moving).length
          retired := (s.frames.toList.filter fun f => f.state = .retired).length
          poolLength := s.pool.length, relocationLength := s.relocations.length }))) ∧
    (∀ slot : Slot, exec (.sessInfo p tag (BitVec.ofNat 8 slot.val)) s =
      .next (s.answered p ⟨tag, .sessInfo (BitVec.ofNat 8 slot.val)⟩ (.sessInfo
        { handle := s.handle slot, state := (s.session slot).state, port := (s.session slot).port,
          group := (s.session slot).group, budget := (s.session slot).budget, activity := (s.session slot).activity,
          shadows := (s.session slot).shadows.length,
          zeroed := ((s.session slot).shadows.filter fun e => e.zeroed).length,
          job := decide (∃ j ∈ s.jobs, j.session? = some slot), guards := (s.session slot).guards.length,
          waitPage := (s.session slot).waitPage }))) ∧
    ∀ slot : Byte, 7 < slot.toNat →
      exec (.sessInfo p tag slot) s = .next (s.answered p ⟨tag, .sessInfo slot⟩ .badValue)

/-- WATCH by the cases of its table: an entry that is there keeps its place, a new one joins at the tail while fewer than 16 are
held, a full list refuses LIMIT; the OK carries the number of entries after the event (R151). -/
def Obligations.WatchAddsPage : Prop :=
  ∀ (p : PortId) (tag : Byte) (page : LP) (s : State), s.PortFree p →
    let r : Request := ⟨tag, .watch page⟩
    let watches := (s.port p).watches
    (page ∈ watches → exec (.watch p tag page) s = .next (s.answered p r (.watched watches.length))) ∧
    (page ∉ watches → watches.length < 16 → exec (.watch p tag page) s =
      .next ((s.setPort p { s.port p with watches := watches ++ [page] }).answered p r (.watched (watches.length + 1)))) ∧
    (page ∉ watches → 16 ≤ watches.length → exec (.watch p tag page) s = .next (s.answered p r .limit))

/-- UNWATCH removes the entry, those behind it closing up, and reports the number left; a page not watched is answered
NOT_WATCHED and nothing changes; notices already queued stay (R152). -/
def Obligations.UnwatchRemovesPage : Prop :=
  ∀ (p : PortId) (tag : Byte) (page : LP) (s : State), s.PortFree p →
    let r : Request := ⟨tag, .unwatch page⟩
    (∀ before after, (s.port p).watches = before ++ page :: after → page ∉ before →
      exec (.unwatch p tag page) s =
        .next ((s.setPort p { s.port p with watches := before ++ after }).answered p r
          (.watched (before.length + after.length)))) ∧
    (page ∉ (s.port p).watches → exec (.unwatch p tag page) s = .next (s.answered p r .notWatched))

/-- GETCONFIG reports the settings record as it stands and changes nothing; after a device reset the record is shifted out as the
thirteen bytes that R180 lists (R156, R179, R180). -/
def Obligations.GetConfigReportsSettings : Prop :=
  (∀ (p : PortId) (tag : Byte) (s : State), s.PortFree p →
    exec (.getConfig p tag) s = .next (s.answered p ⟨tag, .getConfig⟩ (.config s.settings))) ∧
  (Answer.config State.reset.settings).payload =
    [0x14, 0x00, 0x03, 0xF4, 0x01, 0x02, 0x02, 0x02, 0x02, 0x03, 0x03, 0x03, 0x03]

/-- SETCONFIG is refused BAD_VALUE for a field out of range and then BUSY while any slot is not FREE; else it replaces the whole
record, restarts, starts or stops the scrub period timer, re-evaluates every ATTN line and is answered OK (R137, R155, R157,
R180). That an unchanged period leaves the timer running is the model's reading (log entry 14). -/
def Obligations.SetConfigReplacesRecord : Prop :=
  ∀ (p : PortId) (tag : Byte) (record : ConfigRecord) (s : State), s.PortFree p →
    let r : Request := ⟨tag, .setConfig record⟩
    let inRange := record.scrubPeriod.toNat ≤ 1000 ∧ (1 ≤ record.retireThreshold.toNat ∧ record.retireThreshold.toNat ≤ 15) ∧
      (1 ≤ record.defaultBudget.toNat ∧ record.defaultBudget.toNat ≤ 4000) ∧ ∀ q : PortId, record.quotas[q].toNat ≤ 8
    (¬ inRange → exec (.setConfig p tag record) s = .next (s.answered p r .badValue)) ∧
    (inRange → (∃ slot, (s.session slot).state ≠ .free) →
      exec (.setConfig p tag record) s = .next (s.answered p r .busy)) ∧
    (inRange → (∀ slot, (s.session slot).state = .free) →
      ∃ t : State, exec (.setConfig p tag record) s = .next t ∧
        t.settings.scrubPeriod = record.scrubPeriod.toNat ∧ t.settings.retireThreshold = record.retireThreshold.toNat ∧
        t.settings.defaultBudget = record.defaultBudget.toNat ∧
        (∀ q : PortId, t.settings.quotas[q] = record.quotas[q].toNat ∧
          t.settings.respMask[q] = record.portBytes[q].getLsbD 0 ∧ t.settings.noteMask[q] = record.portBytes[q].getLsbD 1 ∧
          t.settings.faultNotices[q] = record.portBytes[q].getLsbD 2) ∧
        t.timer = (if record.scrubPeriod.toNat = s.settings.scrubPeriod then s.timer
          else if record.scrubPeriod = 0 ∨ s.scrub.isSome = true then none else some record.scrubPeriod.toNat) ∧
        (∀ q, t.port q =
          { (if q = p then (s.answered p r .done).port q else s.port q) with
            attn := (t.settings.respMask[q] && !((if q = p then (s.answered p r .done).port q else s.port q).responses.isEmpty))
              || (t.settings.noteMask[q] && !(s.port q).notices.isEmpty) }) ∧
        t = { s with settings := t.settings, timer := t.timer, ports := t.ports })

/-- LOGREAD answers the oldest held record whose sequence number, less the number given, is below 32768 modulo 65536, with the
number of records held and the next-sequence value, and EMPTY with the next-sequence value where none qualifies; it changes
no state (R136). -/
def Obligations.LogReadReturnsRecord : Prop :=
  ∀ (p : PortId) (tag : Byte) (seq : BitVec 16) (s : State), s.PortFree p →
    let r : Request := ⟨tag, .logRead seq⟩
    let qualifies := fun f : FaultRecord => (f.seq - seq).toNat ≤ 32767
    ((∀ f ∈ s.log, ¬ qualifies f) → exec (.logRead p tag seq) s = .next (s.answered p r (.logEmpty s.nextSeq))) ∧
    ∀ before f after, s.log = before ++ f :: after → (∀ g ∈ before, ¬ qualifies g) → qualifies f →
      exec (.logRead p tag seq) s = .next (s.answered p r (.logOk f s.log.length s.nextSeq))

/-! ## Reads -/

/-- READ: a length of 0 or above 256, or a span past address 65535, is refused BOUNDS; a POISONED page among the sources taken
from the map is refused POISONED, the first in span order; else each source is pinned once, in one event, and the data copy
starts. The source of a page is the session's filled shadow where the READ names a session that holds one, and the map's frame
otherwise (R1, R9, R10, R11, R12, R17, R25). -/
def Obligations.ReadCapturesItsPages : Prop :=
  ∀ (p : PortId) (tag : Byte) (handle : Handle) (address length : BitVec 16) (session : Option Slot) (s : State),
    s.PortFree p → ((handle = 0x80#8 ∧ session = none) ∨ (handle ≠ 0x80#8 ∧ ∃ slot, session = some slot ∧ s.Owns p handle slot)) →
    let r : Request := ⟨tag, .read handle address length⟩
    let first : LP := Fin.ofNat 256 (address.toNat / 256)
    let shadow := fun page : LP => session.bind fun slot =>
      if ∃ j ∈ s.jobs, j.session? = some slot ∧ j.page = page then none
      else ((s.session slot).shadows.find? fun e => e.page = page).map ShadowEntry.frame
    let source := fun page : LP => (shadow page).getD (s.entry page).frame
    let refused := fun page : LP => shadow page = none ∧ (s.entry page).condition = .poisoned
    (length = 0 ∨ 256 < length.toNat ∨ 65536 < address.toNat + length.toNat →
      exec (.read p tag handle address length) s = .next (s.answered p r .bounds)) ∧
    (length ≠ 0 → address.toNat % 256 + length.toNat ≤ 256 →
      (refused first → exec (.read p tag handle address length) s = .next (s.answered p r (.poisoned first))) ∧
      (¬ refused first → ∃ todo, exec (.read p tag handle address length) s =
          .next ((s.setFrame (source first)
            { s.frame (source first) with pins := (s.frame (source first)).pins + 1 }).serving p r session
            (.reading [source first] todo [])) ∧
        (todo.flatMap ReadAccess.addresses) = List.range' address.toNat length.toNat ∧
        ∀ a ∈ todo, a.page = first ∧ a.frame = source first)) ∧
    (length.toNat ≤ 256 → 256 < address.toNat % 256 + length.toNat → address.toNat + length.toNat ≤ 65536 →
      let second : LP := first + 1
      (refused first → exec (.read p tag handle address length) s = .next (s.answered p r (.poisoned first))) ∧
      (¬ refused first → refused second →
        exec (.read p tag handle address length) s = .next (s.answered p r (.poisoned second))) ∧
      (¬ refused first → ¬ refused second → ∃ t todo, exec (.read p tag handle address length) s = .next t ∧
        t = ({ s with frames := t.frames }).serving p r session (.reading [source first, source second] todo []) ∧
        (∀ pf, t.frame pf =
          { s.frame pf with
            pins := (s.frame pf).pins + ([source first, source second].filter (· = pf)).length }) ∧
        (todo.flatMap ReadAccess.addresses) = List.range' address.toNat length.toNat ∧
        ∀ a ∈ todo, (a.page = first ∧ a.frame = source first) ∨ (a.page = second ∧ a.frame = source second)))

/-- The end of a READ's data copy releases its pins and answers OK with the data copied (R13, R26); the end of a placement on the
shadowed path answers OK with NEWCLAIM clear and ZEROED as the entry's flag (R60, R76). A READ of two pages releases two pins
in span order; the last pin of a HELD frame sends it to FREE at the pool tail, or, where it is flagged, to RETIRED with a
RETIRED record that names neither page nor handle, while an earlier pin only lowers the count (R11, R24, R26, R30). Each leaves
the port's next request to be taken; here none waits. -/
def Obligations.ReadAndPlacementEnd : Prop :=
  (∀ (p : PortId) (r : Request) (session : Option Slot) (pf : PF) (data : List Byte) (s : State),
    (s.port p).inService = some ⟨r, session, .reading [pf] [] data⟩ → (s.port p).requests = [] → s.Quiet →
    (s.frame pf).state = .mapped ∨ (s.frame pf).state = .shadow →
    exec (.readCompletion p) s =
      .next ((s.setFrame pf { s.frame pf with pins := (s.frame pf).pins - 1 }).setPort p
        { s.port p with
          responses := (s.port p).responses ++ [⟨r.tag, .readOk data⟩]
          inService := none
          attn := s.settings.respMask[p] || (s.settings.noteMask[p] && !(s.port p).notices.isEmpty) })) ∧
  (∀ (p : PortId) (r : Request) (session : Option Slot) (first second : PF) (data : List Byte) (s : State),
    (s.port p).inService = some ⟨r, session, .reading [first, second] [] data⟩ → (s.port p).requests = [] → s.QueueLaw →
    s.relocations = [] → first ≠ second →
    let leaves := fun pf => decide ((s.frame pf).state = .held ∧ (s.frame pf).pins ≤ 1)
    (∀ pf ∈ [first, second], leaves pf = true → (s.frame pf).retireOnRelease = false) →
    ∃ t : State, exec (.readCompletion p) s = .next t ∧
      (∀ pf ∈ [first, second], t.frame pf =
        if leaves pf = true then { s.frame pf with state := .free, owner := none, pins := 0 }
        else { s.frame pf with pins := (s.frame pf).pins - 1 }) ∧
      (∀ pf, pf ≠ first → pf ≠ second → t.frame pf = s.frame pf) ∧
      t.pool = s.pool ++ [first, second].filter leaves ∧
      t = { s.setPort p
        { s.port p with
          responses := (s.port p).responses ++ [⟨r.tag, .readOk data⟩]
          inService := none
          attn := s.settings.respMask[p] || (s.settings.noteMask[p] && !(s.port p).notices.isEmpty) } with
        frames := t.frames, pool := t.pool }) ∧
  (∀ (p : PortId) (r : Request) (session : Option Slot) (pf : PF) (data : List Byte) (s : State),
    (s.port p).inService = some ⟨r, session, .reading [pf] [] data⟩ → (s.port p).requests = [] → s.QueueLaw →
    s.relocations = [] → (s.frame pf).state = .held →
    let answered := s.setPort p
      { s.port p with
        responses := (s.port p).responses ++ [⟨r.tag, .readOk data⟩]
        inService := none
        attn := s.settings.respMask[p] || (s.settings.noteMask[p] && !(s.port p).notices.isEmpty) }
    (2 ≤ (s.frame pf).pins → exec (.readCompletion p) s =
      .next (answered.setFrame pf { s.frame pf with pins := (s.frame pf).pins - 1 })) ∧
    ((s.frame pf).pins = 1 → (s.frame pf).retireOnRelease = false → exec (.readCompletion p) s =
      .next { answered.setFrame pf { s.frame pf with state := .free, owner := none, pins := 0 } with
        pool := s.pool ++ [pf] }) ∧
    ((s.frame pf).pins = 1 → (s.frame pf).retireOnRelease = true →
      (∀ q : PortId, s.settings.faultNotices[q] = false) → exec (.readCompletion p) s =
      .next { answered.setFrame pf { s.frame pf with state := .retired, owner := none, pins := 0 } with
        log := (if s.log.length < 16 then s.log else s.log.drop (s.log.length - 15)) ++
          [{ seq := s.nextSeq, kind := .retired, frame := pf, word := none, syndrome := none, context := none,
             page := none, handle := none }]
        nextSeq := s.nextSeq + 1 })) ∧
  ∀ (p : PortId) (r : Request) (session : Option Slot) (pf : PF) (write : PendingWrite) (zeroed : Bool) (s : State),
    (s.port p).inService = some ⟨r, session, .placing pf write [] zeroed⟩ → (s.port p).requests = [] → s.QueueLaw →
    exec (.writePlacementEnd p) s =
      .next (s.setPort p
        { s.port p with
          responses := (s.port p).responses ++ [⟨r.tag, .writeOk false zeroed⟩]
          inService := none
          attn := s.settings.respMask[p] || (s.settings.noteMask[p] && !(s.port p).notices.isEmpty) })

/-! ## Writes, claims and waits -/

/-- A WRITE's refusals in the order of its checks, each changing nothing but the port's response: BOUNDS, BUSY, LIMIT, CONFLICT
with the holder's handle, NO_PAGE; a WRITE to a page in the session's shadow list meets none of the last three
(R57, R58, R59, R62, R63, R64). -/
def Obligations.WriteRefusals : Prop :=
  ∀ (p : PortId) (tag : Byte) (handle : Handle) (address : BitVec 16) (flags : Byte) (data : List Byte) (slot : Slot)
    (s : State), s.PortFree p → s.Owns p handle slot → (s.session slot).state = .opened → data.length ≤ 64 →
    let r : Request := ⟨tag, .write handle address flags data⟩
    let page : LP := Fin.ofNat 256 (address.toNat / 256)
    let inPage := data ≠ [] ∧ address.toNat % 256 + data.length ≤ 256
    let shadowed := ∃ e ∈ (s.session slot).shadows, e.page = page
    (¬ inPage → exec (.write p tag handle address flags data) s = .next (s.answered p r .bounds)) ∧
    (inPage → (s.session slot).activity ≠ .idle →
      exec (.write p tag handle address flags data) s = .next (s.answered p r .busy)) ∧
    (inPage → (s.session slot).activity = .idle → ¬ shadowed →
      (32 ≤ (s.session slot).shadows.length →
        exec (.write p tag handle address flags data) s = .next (s.answered p r .limit)) ∧
      ((s.session slot).shadows.length < 32 →
        (∀ holder, (s.entry page).claim = some holder → flags.getLsbD 0 = false →
          exec (.write p tag handle address flags data) s = .next (s.answered p r (.conflict (s.handle holder)))) ∧
        ((s.entry page).claim = none → s.pool = [] →
          exec (.write p tag handle address flags data) s = .next (s.answered p r .noPage))))

/-- A WRITE to a shadowed page is placed in its shadow frame, whatever the wait flag, the claim and the pool (R59, R60). A first
write to an unclaimed page takes, in one event, the claim, the frame at the pool head, a shadow entry and a job, a COPY with
its source pinned or, for a POISONED page, a ZERO with none (R23, R25, R65). -/
def Obligations.WriteTakesItsPath : Prop :=
  ∀ (p : PortId) (tag : Byte) (handle : Handle) (address : BitVec 16) (flags : Byte) (data : List Byte) (slot : Slot)
    (s : State), s.PortFree p → s.Owns p handle slot → (s.session slot).state = .opened →
    (s.session slot).activity = .idle → data ≠ [] → data.length ≤ 64 → address.toNat % 256 + data.length ≤ 256 →
    let r : Request := ⟨tag, .write handle address flags data⟩
    let page : LP := Fin.ofNat 256 (address.toNat / 256)
    let write : PendingWrite := { offset := address.toNat % 256, data := data }
    (∀ before e after, (s.session slot).shadows = before ++ e :: after → e.page = page →
      (∀ other ∈ before, other.page ≠ page) →
      exec (.write p tag handle address flags data) s =
        .next (s.serving p r (some slot) (.placing e.frame write write.covered e.zeroed))) ∧
    ∀ pf rest, (∀ e ∈ (s.session slot).shadows, e.page ≠ page) → (s.session slot).shadows.length < 32 →
      (s.entry page).claim = none → s.pool = pf :: rest → (s.entry page).frame ≠ pf →
      ∃ t : State, exec (.write p tag handle address flags data) s = .next t ∧
        t = { s with
          map := t.map, frames := t.frames, pool := rest, sessions := t.sessions, jobs := t.jobs, ports := t.ports } ∧
        t.port p = (s.serving p r (some slot) .copying).port p ∧ (∀ q, q ≠ p → t.port q = s.port q) ∧
        t.entry page = { s.entry page with claim := some slot } ∧
        (∀ other, other ≠ page → t.entry other = s.entry other) ∧
        t.frame pf = { s.frame pf with state := .shadow, owner := some (.session slot) } ∧
        t.session slot =
          { s.session slot with
            shadows := (s.session slot).shadows ++ [⟨page, pf, decide ((s.entry page).condition = .poisoned)⟩]
            activity := .copying } ∧
        (∀ other, other ≠ slot → t.session other = s.session other) ∧
        ((s.entry page).condition = .normal →
          t.jobs = s.jobs ++
            [⟨.copy slot (s.entry page).frame write .inService, page, pf, .fillRead 0⟩] ∧
          t.frame (s.entry page).frame =
            { s.frame (s.entry page).frame with pins := (s.frame (s.entry page).frame).pins + 1 } ∧
          ∀ other, other ≠ pf → other ≠ (s.entry page).frame → t.frame other = s.frame other) ∧
        ((s.entry page).condition = .poisoned →
          t.jobs = s.jobs ++ [⟨.zero slot write .inService, page, pf, .fillWrite 0 0⟩] ∧
          ∀ other, other ≠ pf → t.frame other = s.frame other)

/-- A WRITE with the wait flag set that finds its page claimed parks, its entry at the tail of the claim wait list, and is
answered WAITING; where the holder waits, through any chain of waits, for the writer, it is refused DEADLOCK and changes no
state (R79, R80, R81, R82). -/
def Obligations.WriteParksOrDeadlocks : Prop :=
  ∀ (p : PortId) (tag : Byte) (handle : Handle) (address : BitVec 16) (flags : Byte) (data : List Byte) (slot holder : Slot)
    (s : State), s.PortFree p → s.Owns p handle slot → (s.session slot).state = .opened →
    (s.session slot).activity = .idle → data ≠ [] → data.length ≤ 64 → address.toNat % 256 + data.length ≤ 256 →
    flags.getLsbD 0 = true →
    let r : Request := ⟨tag, .write handle address flags data⟩
    let page : LP := Fin.ofNat 256 (address.toNat / 256)
    (∀ e ∈ (s.session slot).shadows, e.page ≠ page) → (s.session slot).shadows.length < 32 →
    (s.entry page).claim = some holder →
    (Relation.ReflTransGen s.WaitsFor holder slot →
      exec (.write p tag handle address flags data) s = .next (s.answered p r .deadlock)) ∧
    (¬ Relation.ReflTransGen s.WaitsFor holder slot →
      exec (.write p tag handle address flags data) s =
        .next (({ s with waits := s.waits ++ [(⟨slot, page⟩ : WaitEntry)] }.setSession slot
          { s.session slot with
            parked := some ⟨address, data⟩, waitPage := some page, activity := .parked }).answered p r .waiting))

/-! ## Commit and groups -/

/-- COMMIT of an ungrouped session whose guards all hold: every page of its shadow list maps its shadow frame at the stepped
version, NORMAL, every other page keeps its frame, version and condition, the session is FREE, and the COMMIT is answered
COMMITTED with the number of pages (R5, R96, R98, R101, R102, R107). A page that waits for relocation leaves the relocation
list, and one that is relocating has its relocation abandoned first: the job leaves the queue with its pin on the old frame,
the target goes to FREE at the pool tail ahead of the old frame, the flag is cleared (R24, R103, R104, R140, R144). -/
def Obligations.CommitAppliesSession : Prop :=
  ∀ (p : PortId) (tag : Byte) (handle : Handle) (slot : Slot) (s : State), s.PortFree p → s.Owns p handle slot →
    (s.session slot).state = .opened → (s.session slot).activity = .idle → (s.session slot).group = none →
    (∀ g ∈ (s.session slot).guards, (s.entry g.page).version = g.version) →
    ((s.session slot).shadows.map ShadowEntry.page).Nodup →
    ∃ t : State, exec (.commit p tag handle) s = .next t ∧
      (∀ e ∈ (s.session slot).shadows, (t.entry e.page).frame = e.frame ∧ (t.entry e.page).condition = .normal ∧
        (t.entry e.page).version = (if (s.entry e.page).version = 65535#16 then 1 else (s.entry e.page).version + 1)) ∧
      (∀ page, (∀ e ∈ (s.session slot).shadows, e.page ≠ page) → (t.entry page).frame = (s.entry page).frame ∧
        (t.entry page).version = (s.entry page).version ∧ (t.entry page).condition = (s.entry page).condition) ∧
      (t.session slot).state = .free ∧ (t.session slot).generation = (s.session slot).generation ∧
      (t.port p).responses = (s.port p).responses ++ [⟨tag, .committed (s.session slot).shadows.length⟩] ∧
      (t.port p).inService = none ∧ s.KeepsOthers t (· = slot) (fun _ => False) ∧ t.groups = s.groups ∧
      (∀ e ∈ (s.session slot).shadows, (s.entry e.page).relocating = false → e.page ∉ t.relocations) ∧
      ∀ e target progress before after, (s.session slot).shadows = [e] → (s.entry e.page).relocating = true →
        let source := (s.entry e.page).frame
        s.jobs = before ++ ⟨.relocate source, e.page, target, progress⟩ :: after →
        (∀ j ∈ before, j.isRelocate = false) → (s.frame source).state = .mapped → (s.frame source).pins ≤ 1 →
        (s.frame source).retireOnRelease = false → (s.frame target).state = .moving → (s.frame target).pins = 0 →
        (s.frame target).retireOnRelease = false → (s.frame e.frame).state = .shadow →
        (∀ w ∈ s.waits, w.page ≠ e.page) → s.relocations = [] →
        t.jobs = before ++ after ∧ (t.entry e.page).relocating = false ∧ (t.entry e.page).claim = none ∧
        t.pool = s.pool ++ [target, source] ∧
        t.frame target = { s.frame target with state := .free, owner := none } ∧
        t.frame source = { s.frame source with state := .free, owner := none, pins := 0 } ∧
        t.frame e.frame = { s.frame e.frame with state := .mapped, owner := some (.page e.page) } ∧
        (∀ pf, pf ≠ target → pf ≠ source → pf ≠ e.frame → t.frame pf = s.frame pf) ∧
        (∀ page, page ≠ e.page → t.entry page = s.entry page) ∧ t.log = s.log ∧ t.nextSeq = s.nextSeq

/-- The apply of a page tells every port that watches it: a WATCH_CHANGED notice with the page, its new version and the handle
joins the tail of that port's queue with the port's overrun value, or is dropped at a full queue with the flag set; a port
that does not watch the page gets none (R106, R146, R147, R150). Here one page is applied, no write waits and no port has
fault notices on. -/
def Obligations.ApplyTellsWatchers : Prop :=
  ∀ (p : PortId) (tag : Byte) (handle : Handle) (slot : Slot) (e : ShadowEntry) (s : State), s.PortFree p →
    s.Owns p handle slot → (s.session slot).state = .opened → (s.session slot).activity = .idle →
    (s.session slot).group = none → (s.session slot).guards = [] → (s.session slot).shadows = [e] → s.waits = [] →
    (∀ q : PortId, s.settings.faultNotices[q] = false) →
    ∃ t : State, exec (.commit p tag handle) s = .next t ∧
      ∀ q, let r := s.port q
        (e.page ∉ r.watches → (t.port q).notices = r.notices ∧ (t.port q).overrun = r.overrun) ∧
        (e.page ∈ r.watches → r.notices.length < 8 →
          (t.port q).notices = r.notices ++ [⟨.watchChanged e.page
            (if (s.entry e.page).version = 65535#16 then 1 else (s.entry e.page).version + 1) handle, r.overrun⟩] ∧
          (t.port q).overrun = false) ∧
        (e.page ∈ r.watches → 8 ≤ r.notices.length → (t.port q).notices = r.notices ∧ (t.port q).overrun = true)

/-- COMMIT of an ungrouped session with a failing guard aborts it with reason GUARD and the page of the first entry that fails, in
list order; no page's frame, version or condition changes (R52, R95, R96, R98, R100). COMMIT while the session is COPYING or
PARKED is refused BUSY and changes nothing (R97). -/
def Obligations.CommitRefusedOrAborted : Prop :=
  (∀ (p : PortId) (tag : Byte) (handle : Handle) (slot : Slot) (s : State), s.PortFree p → s.Owns p handle slot →
    (s.session slot).state = .opened → (s.session slot).activity ≠ .idle →
    exec (.commit p tag handle) s = .next (s.answered p ⟨tag, .commit handle⟩ .busy)) ∧
  ∀ (p : PortId) (tag : Byte) (handle : Handle) (slot : Slot) (before : List GuardEntry) (g : GuardEntry)
    (after : List GuardEntry) (s : State), s.PortFree p → s.Owns p handle slot →
    (s.session slot).state = .opened → (s.session slot).activity = .idle → (s.session slot).group = none →
    (s.session slot).guards = before ++ g :: after → (∀ b ∈ before, (s.entry b.page).version = b.version) →
    (s.entry g.page).version ≠ g.version →
    ∃ t : State, exec (.commit p tag handle) s = .next t ∧
      (∀ page, (t.entry page).frame = (s.entry page).frame ∧ (t.entry page).version = (s.entry page).version ∧
        (t.entry page).condition = (s.entry page).condition) ∧
      (t.session slot).state = .free ∧ (t.session slot).generation = (s.session slot).generation ∧
      (t.port p).responses = (s.port p).responses ++ [⟨tag, .aborted (.guard g.page)⟩] ∧
      (t.port p).inService = none ∧ s.KeepsOthers t (· = slot) (fun _ => False) ∧ t.groups = s.groups

/-- COMMIT of a member makes it READY and applies nothing while its group is GATHERING, or CLOSING with another member not READY;
its guards are not checked (R99, R113). The COMMIT that makes the last member of a CLOSING group READY is answered READY and
resolves the group in its event: where every guard holds all members are applied, each told by GROUP_APPLIED and the closer
port by GROUP_RESULT with outcome APPLIED; where one fails the whole group is aborted, the member of the first failing entry
first with reason GUARD, the others with reason GROUP, each told by SESSION_ABORTED and the closer port by GROUP_RESULT with
outcome ABORTED (R50, R51, R116, R117, R118, R119, R120, R121). Notices are given where there is room for them. -/
def Obligations.CommitMakesMemberReady : Prop :=
  (∀ (p : PortId) (tag : Byte) (handle : Handle) (slot : Slot) (g : GroupIx) (s : State), s.PortFree p →
    s.Owns p handle slot → (s.session slot).state = .opened → (s.session slot).activity = .idle →
    (s.session slot).group = some g →
    (s.group g).state ≠ .closing ∨ (∃ m ∈ (s.group g).members, m ≠ slot ∧ (s.session m).state ≠ .ready) →
    exec (.commit p tag handle) s =
      .next ((s.setSession slot { s.session slot with state := .ready }).answered p ⟨tag, .commit handle⟩ .ready)) ∧
  ∀ (p closer : PortId) (tag : Byte) (handle : Handle) (slot : Slot) (g : GroupIx) (s : State), s.PortFree p →
    s.Owns p handle slot → (s.session slot).state = .opened → (s.session slot).activity = .idle →
    (s.session slot).group = some g → (s.group g).state = .closing → (s.group g).closer = some closer →
    slot ∈ (s.group g).members → (∀ m ∈ (s.group g).members, m ≠ slot → (s.session m).state = .ready) →
    let members := (s.group g).members
    let onPort := fun q m => decide ((s.session m).port = some q)
    let ended := fun t : State =>
      (∀ m ∈ members, (t.session m).state = .free ∧ (t.session m).generation = (s.session m).generation) ∧
      t.group g = { state := .idle, members := [], closer := none } ∧
      (t.port p).responses = (s.port p).responses ++ [⟨tag, .ready⟩] ∧ (t.port p).inService = none ∧
      s.KeepsOthers t (· ∈ members) (fun _ => False)
    let roomFor := fun q =>
      (s.port q).notices.length + (members.filter (onPort q)).length + (if q = closer then 1 else 0) ≤ 8
    let undisturbed := members.Nodup ∧ (∀ w ∈ s.waits, ∀ m ∈ members, ∀ e ∈ (s.session m).shadows, w.page ≠ e.page) ∧
      ∀ q : PortId, s.settings.faultNotices[q] = false
    ((∀ m ∈ members, ∀ e ∈ (s.session m).guards, (s.entry e.page).version = e.version) →
      ((members.flatMap fun m => (s.session m).shadows).map ShadowEntry.page).Nodup →
      ∃ t : State, exec (.commit p tag handle) s = .next t ∧ ended t ∧
        (∀ m ∈ members, ∀ e ∈ (s.session m).shadows,
          (t.entry e.page).frame = e.frame ∧ (t.entry e.page).condition = .normal ∧
          (t.entry e.page).version =
            (if (s.entry e.page).version = 65535#16 then 1 else (s.entry e.page).version + 1)) ∧
        (∀ page, (∀ m ∈ members, ∀ e ∈ (s.session m).shadows, e.page ≠ page) →
          (t.entry page).frame = (s.entry page).frame ∧ (t.entry page).version = (s.entry page).version ∧
          (t.entry page).condition = (s.entry page).condition) ∧
        (undisturbed → (∀ q, ∀ m ∈ members, ∀ e ∈ (s.session m).shadows, e.page ∉ (s.port q).watches) →
          ∀ q, roomFor q → (t.port q).notices.map Notice.body = (s.port q).notices.map Notice.body ++
            (members.filter (onPort q)).map
              (fun m => .groupApplied (s.handle m) (s.session m).shadows.length) ++
            (if q = closer then
              [.groupResult g (.applied members.length (members.map fun m => (s.session m).shadows.length).sum)]
             else []))) ∧
    ∀ before m after pre e post, members = before ++ m :: after →
      (∀ x ∈ members, (s.session x).group = some g ∧ (s.session x).state ≠ .free) →
      (∀ b ∈ before, ∀ x ∈ (s.session b).guards, (s.entry x.page).version = x.version) →
      (s.session m).guards = pre ++ e :: post → (∀ x ∈ pre, (s.entry x.page).version = x.version) →
      (s.entry e.page).version ≠ e.version →
      (∀ q r, (s.port q).inService = some r → ∀ x ∈ members, r.session ≠ some x) →
      ∃ t : State, exec (.commit p tag handle) s = .next t ∧ ended t ∧
        (∀ page, (t.entry page).frame = (s.entry page).frame ∧ (t.entry page).version = (s.entry page).version ∧
          (t.entry page).condition = (s.entry page).condition) ∧
        (undisturbed →
          ∀ q, roomFor q → (t.port q).notices.map Notice.body = (s.port q).notices.map Notice.body ++
            (if onPort q m then [.sessionAborted (s.handle m) (.guard e.page)] else []) ++
            ((before ++ after).filter (onPort q)).map (fun x => .sessionAborted (s.handle x) .group) ++
            (if q = closer then [.groupResult g (.aborted (s.handle m) (.guard e.page))] else []))

/-- CLOSE by the cases of its table that resolve nothing: a tag of 0 or above 4, an IDLE group, a CLOSING group, and a GATHERING
group with a member not READY, which becomes CLOSING with the sending port as closer port (R114, R115). -/
def Obligations.CloseCases : Prop :=
  ∀ (p : PortId) (tag group : Byte) (s : State), s.PortFree p →
    let r : Request := ⟨tag, .close group⟩
    ((group = 0 ∨ 4 < group.toNat) → exec (.close p tag group) s = .next (s.answered p r .badValue)) ∧
    ∀ g : GroupIx, group.toNat = g.val + 1 →
      ((s.group g).state = .idle → exec (.close p tag group) s = .next (s.answered p r .groupEmpty)) ∧
      ((s.group g).state = .closing → exec (.close p tag group) s = .next (s.answered p r .already)) ∧
      ((s.group g).state = .gathering → (∃ m ∈ (s.group g).members, (s.session m).state ≠ .ready) →
        exec (.close p tag group) s =
          .next ((s.setGroup g { s.group g with state := .closing, closer := some p }).answered p r .closing))

/-- CLOSE of a GATHERING group whose members are all READY and whose guards all hold applies every member in one event: every
page of every member maps its shadow frame at the stepped version, NORMAL, every other page keeps its frame, version and
condition, every member is FREE, the group IDLE, and the CLOSE is answered APPLIED with the counts (R101, R114, R116,
R118, R119). -/
def Obligations.CloseAppliesGroup : Prop :=
  ∀ (p : PortId) (tag group : Byte) (g : GroupIx) (s : State), s.PortFree p → group.toNat = g.val + 1 →
    (s.group g).state = .gathering → (∀ m ∈ (s.group g).members, (s.session m).state = .ready) →
    (∀ m ∈ (s.group g).members, ∀ e ∈ (s.session m).guards, (s.entry e.page).version = e.version) →
    (((s.group g).members.flatMap fun m => (s.session m).shadows).map ShadowEntry.page).Nodup →
    ∃ t : State, exec (.close p tag group) s = .next t ∧
      (∀ m ∈ (s.group g).members, ∀ e ∈ (s.session m).shadows,
        (t.entry e.page).frame = e.frame ∧ (t.entry e.page).condition = .normal ∧
        (t.entry e.page).version = (if (s.entry e.page).version = 65535#16 then 1 else (s.entry e.page).version + 1)) ∧
      (∀ page, (∀ m ∈ (s.group g).members, ∀ e ∈ (s.session m).shadows, e.page ≠ page) →
        (t.entry page).frame = (s.entry page).frame ∧ (t.entry page).version = (s.entry page).version ∧
        (t.entry page).condition = (s.entry page).condition) ∧
      (∀ m ∈ (s.group g).members,
        (t.session m).state = .free ∧ (t.session m).generation = (s.session m).generation) ∧
      t.group g = { state := .idle, members := [], closer := none } ∧
      (t.port p).responses = (s.port p).responses ++
        [⟨tag, .applied (s.group g).members.length
          ((s.group g).members.map fun m => (s.session m).shadows.length).sum⟩] ∧
      (t.port p).inService = none ∧ s.KeepsOthers t (· ∈ (s.group g).members) (fun _ => False)

/-- The abort of one member of a group aborts the whole group: after an ABORT of a member, and after a CLOSE whose guard check
fails at a member, every member is FREE, the group is IDLE and no page's frame, version or condition has changed
(R51, R53, R114, R116, R120). -/
def Obligations.GroupAbortsWhole : Prop :=
  ∀ (p : PortId) (tag : Byte) (g : GroupIx) (s : State), s.PortFree p → s.NoneQueued →
    (∀ m ∈ (s.group g).members, (s.session m).group = some g ∧ (s.session m).state ≠ .free) →
    let aborted := fun t : State =>
      (∀ m ∈ (s.group g).members,
        (t.session m).state = .free ∧ (t.session m).generation = (s.session m).generation) ∧
      t.group g = { state := .idle, members := [], closer := none } ∧
      (∀ page, (t.entry page).frame = (s.entry page).frame ∧ (t.entry page).version = (s.entry page).version ∧
        (t.entry page).condition = (s.entry page).condition) ∧
      s.KeepsOthers t (· ∈ (s.group g).members) (fun _ => False)
    (∀ handle slot, s.Owns p handle slot → slot ∈ (s.group g).members →
      ∃ t : State, exec (.abort p tag handle) s = .next t ∧ aborted t ∧
        (t.port p).responses = (s.port p).responses ++ [⟨tag, .done⟩]) ∧
    ∀ group before m after pre e post, group.toNat = g.val + 1 → (s.group g).state = .gathering →
      (∀ x ∈ (s.group g).members, (s.session x).state = .ready) → (s.group g).members = before ++ m :: after →
      (∀ b ∈ before, ∀ x ∈ (s.session b).guards, (s.entry x.page).version = x.version) →
      (s.session m).guards = pre ++ e :: post → (∀ x ∈ pre, (s.entry x.page).version = x.version) →
      (s.entry e.page).version ≠ e.version →
      ∃ t : State, exec (.close p tag group) s = .next t ∧ aborted t ∧
        (t.port p).responses = (s.port p).responses ++ [⟨tag, .aborted (.guard e.page)⟩]

/-! ## The store, the Check Unit and the Copy Unit -/

/-- The store arbiter grants the first waiting position after the one last granted, in ring order, and no other: no waiting
position lies nearer in the ring (R33). -/
def Obligations.ArbiterFollowsRing : Prop :=
  ∀ (flips : BitVec 39) (s : State), (∃ c, 1 ≤ c ∧ c ≤ 7 ∧ clientWaits s c = true) →
    ∃ t : State, exec (.storeArbiterGrant flips) s = .next t ∧
      1 ≤ t.lastGranted ∧ t.lastGranted ≤ 7 ∧ clientWaits s t.lastGranted = true ∧
      ∀ c, 1 ≤ c → c ≤ 7 → clientWaits s c = true →
        ringDistance s.lastGranted t.lastGranted ≤ ringDistance s.lastGranted c

/-- The check code: a word just written decodes clean with its data; with any one of its 39 bits disturbed it decodes correctable
and delivers its data; with any two disturbed it decodes uncorrectable (R31, R126). It holds whichever three-bit syndromes the
data bits have (log entry 7). -/
def Obligations.CheckCodeCorrectsOneDetectsTwo : Prop :=
  ∀ data : Word, (StoreWord.fresh data).decode = .clean data ∧
    (∀ i : Fin 39, ((StoreWord.fresh data).disturbBit i).decode = .correctable data) ∧
    ∀ i j : Fin 39, i ≠ j → (((StoreWord.fresh data).disturbBit i).disturbBit j).decode = .uncorrectable

/-- A clean word at a READ's access adds the bytes of the span to the data copied; at the fill of a COPY or RELOCATE job it
becomes the next word to write, and the write puts it in the target with fresh check bits and goes on to the next word
(R13, R31, R33, R68, R142). The grant's operand 0 says that the word suffered no new disturbance (log entry 5). -/
def Obligations.CleanWordMovesOn : Prop :=
  (∀ (p : PortId) (r : Request) (session : Option Slot) (pins : List PF) (a : ReadAccess) (todo : List ReadAccess)
    (data : List Byte) (word : Word) (s : State), s.Quiet → nextClient s = some (p.val + 1) →
    (s.port p).inService = some ⟨r, session, .reading pins (a :: todo) data⟩ →
    (s.word a.frame a.word).decode = .clean word →
    exec (.storeArbiterGrant 0) s = .next ({ s with lastGranted := p.val + 1 }.setPort p
      { s.port p with
        inService := some ⟨r, session, .reading pins todo
          (data ++ (List.range' a.first (min (a.last + 1) 4 - a.first)).map (byteOfWord word))⟩ })) ∧
  (∀ (job : Job) (rest : List Job) (source : PF) (k : WordIx) (word : Word) (s : State), s.Quiet →
    nextClient s = some 5 → s.jobs = job :: rest → job.source? = some source → job.progress = .fillRead k →
    (s.word source k).decode = .clean word →
    exec (.storeArbiterGrant 0) s =
      .next { s with lastGranted := 5, jobs := { job with progress := .fillWrite k word } :: rest }) ∧
  ∀ (job : Job) (rest : List Job) (k : WordIx) (word : Word) (s : State), s.Quiet →
    nextClient s = some 5 → s.jobs = job :: rest → job.progress = .fillWrite k word →
    ∃ next, exec (.storeArbiterGrant 0) s =
        .next ({ s with lastGranted := 5, jobs := { job with progress := next } :: rest }.writeWord job.target k word) ∧
      (∀ (k' : WordIx) source, k'.val = k.val + 1 → job.source? = some source → next = .fillRead k') ∧
      (∀ k' : WordIx, k'.val = k.val + 1 → job.source? = none → next = .fillWrite k' 0) ∧
      (k.val = 63 → next = .place job.write.covered)

/-- A correctable word met by a scrub read: the read goes on, the corrected count steps (saturating at 15), a SHADOW frame now
at the retire threshold is flagged, a CORRECTED record with the next sequence number is appended, the oldest of 16 being
replaced, and the write-back is queued unless 8 wait. Here no port has fault notices on (R28, R29, R127, R128, R133),
and the grant's operand says that the word suffered no new disturbance (log entry 5). -/
def Obligations.CorrectableWordIsRecorded : Prop :=
  ∀ (pf : PF) (k : WordIx) (word : Word) (s : State), s.Quiet → nextClient s = some 6 →
    s.scrub = some ⟨pf, k.val⟩ → (s.word pf k).decode = .correctable word →
    (∀ p : PortId, s.settings.faultNotices[p] = false) →
    let count := min ((s.frame pf).corrected + 1) (max 15 (s.frame pf).corrected)
    let record : FaultRecord :=
      { seq := s.nextSeq, kind := .corrected, frame := pf, word := some k, syndrome := some (s.word pf k).diff,
        context := some .scrub, page := s.recordPage pf, handle := s.recordHandle pf }
    exec (.storeArbiterGrant 0) s =
      .next { s.setFrame pf
        { s.frame pf with
          corrected := count
          retireOnRelease := (s.frame pf).retireOnRelease ||
            (decide ((s.frame pf).state = .shadow) && decide (s.settings.retireThreshold ≤ count)) } with
        lastGranted := 6
        scrub := some ⟨pf, k.val + 1⟩
        log := (if s.log.length < 16 then s.log else s.log.drop (s.log.length - 15)) ++ [record]
        nextSeq := s.nextSeq + 1
        writeBacks := if s.writeBacks.length < 8 then s.writeBacks ++ [⟨pf, k, (s.word pf k).diff, word⟩]
          else s.writeBacks }

/-- An uncorrectable word in a MAPPED frame, met by a scrub read or by a READ: the page is POISONED, the frame flagged, an
UNCORRECTABLE record appended with the page, the page off the relocation list; the scrub read ends with its timer restarted,
and the READ is answered POISONED with the page, its pin released; no other page, frame or port changes (R6, R14, R130, R131,
R137, R139). A relocation of the page is abandoned in the same event, whether the RELOCATE job itself meets the word or a
READ does: the job leaves the queue, its pin on the source is released, the target goes to FREE at the pool tail and the flag
is cleared (R142, R144). No relocation is listed behind the page, no port has fault notices on, and the grant's operand is as
in log entry 5. -/
def Obligations.UncorrectableMappedWordPoisons : Prop :=
  (∀ (pf : PF) (k : WordIx) (page : LP) (s : State), s.QueueLaw → nextClient s = some 6 → s.scrub = some ⟨pf, k.val⟩ →
    (s.word pf k).decode = .uncorrectable → (s.frame pf).state = .mapped → (s.frame pf).owner = some (.page page) →
    (s.entry page).relocating = false → (∀ x ∈ s.relocations, x = page) →
    (∀ p : PortId, s.settings.faultNotices[p] = false) →
    ∃ t : State, exec (.storeArbiterGrant 0) s = .next t ∧
      t.entry page = { s.entry page with condition := .poisoned } ∧
      t.frame pf = { s.frame pf with pins := (s.frame pf).pins - 1, retireOnRelease := true } ∧
      t.log = (if s.log.length < 16 then s.log else s.log.drop (s.log.length - 15)) ++
        [{ seq := s.nextSeq, kind := .uncorrectable, frame := pf, word := some k, syndrome := some (s.word pf k).diff,
           context := some .scrub, page := some page, handle := none }] ∧
      t.timer = (if s.settings.scrubPeriod = 0 then none else some s.settings.scrubPeriod) ∧
      t = { s with
        map := t.map, frames := t.frames, log := t.log, nextSeq := s.nextSeq + 1, relocations := [], scrub := none,
        timer := t.timer, lastGranted := 6 } ∧
      (∀ other, other ≠ page → t.entry other = s.entry other) ∧ ∀ other, other ≠ pf → t.frame other = s.frame other) ∧
  (∀ (p : PortId) (r : Request) (session : Option Slot) (a : ReadAccess) (todo : List ReadAccess) (data : List Byte)
    (page : LP) (s : State), s.QueueLaw → nextClient s = some (p.val + 1) → (s.port p).requests = [] →
    (s.port p).inService = some ⟨r, session, .reading [a.frame] (a :: todo) data⟩ →
    (s.word a.frame a.word).decode = .uncorrectable → (s.frame a.frame).state = .mapped →
    (s.frame a.frame).owner = some (.page page) → (s.entry page).relocating = false →
    (∀ x ∈ s.relocations, x = page) → (∀ q : PortId, s.settings.faultNotices[q] = false) →
    ∃ t : State, exec (.storeArbiterGrant 0) s = .next t ∧
      t.entry page = { s.entry page with condition := .poisoned } ∧
      t.frame a.frame = { s.frame a.frame with pins := (s.frame a.frame).pins - 1, retireOnRelease := true } ∧
      (t.port p).responses = (s.port p).responses ++ [⟨r.tag, .poisoned a.page⟩] ∧ (t.port p).inService = none ∧
      t.log = (if s.log.length < 16 then s.log else s.log.drop (s.log.length - 15)) ++
        [{ seq := s.nextSeq, kind := .uncorrectable, frame := a.frame, word := some a.word,
           syndrome := some (s.word a.frame a.word).diff, context := some .read, page := some page, handle := none }] ∧
      t.port p =
        { s.port p with
          responses := (s.port p).responses ++ [⟨r.tag, .poisoned a.page⟩]
          inService := none
          attn := s.settings.respMask[p] || (s.settings.noteMask[p] && !(s.port p).notices.isEmpty) } ∧
      (∀ q, q ≠ p → t.port q = s.port q) ∧
      (∀ other, other ≠ page → t.entry other = s.entry other) ∧
      (∀ other, other ≠ a.frame → t.frame other = s.frame other) ∧
      t = { s with
        map := t.map, frames := t.frames, log := t.log, nextSeq := s.nextSeq + 1, relocations := [], ports := t.ports,
        lastGranted := p.val + 1 }) ∧
  ∀ (source target : PF) (page : LP) (progress : Progress) (before after : List Job) (s : State), s.QueueLaw →
    s.jobs = before ++ ⟨.relocate source, page, target, progress⟩ :: after →
    (∀ j ∈ before ++ after, j.isRelocate = false) → (s.frame source).state = .mapped →
    (s.frame source).owner = some (.page page) → (s.entry page).relocating = true → (s.frame target).state = .moving →
    (s.frame target).pins = 0 → (s.frame target).retireOnRelease = false → (∀ x ∈ s.relocations, x = page) →
    (∀ q : PortId, s.settings.faultNotices[q] = false) →
    let abandoned := fun (t : State) (pins : Nat) (k : WordIx) (context : ReadContext) =>
      t.entry page = { s.entry page with condition := .poisoned, relocating := false } ∧
      (∀ other, other ≠ page → t.entry other = s.entry other) ∧
      t.frame source = { s.frame source with pins := (s.frame source).pins - pins, retireOnRelease := true } ∧
      t.frame target = { s.frame target with state := .free, owner := none } ∧
      (∀ other, other ≠ source → other ≠ target → t.frame other = s.frame other) ∧
      t.pool = s.pool ++ [target] ∧ t.jobs = before ++ after ∧ t.relocations = [] ∧
      t.log = (if s.log.length < 16 then s.log else s.log.drop (s.log.length - 15)) ++
        [{ seq := s.nextSeq, kind := .uncorrectable, frame := source, word := some k,
           syndrome := some (s.word source k).diff, context := some context, page := some page, handle := none }] ∧
      t.nextSeq = s.nextSeq + 1
    (∀ k, before = [] → progress = .fillRead k → nextClient s = some 5 → (s.word source k).decode = .uncorrectable →
      ∃ t : State, exec (.storeArbiterGrant 0) s = .next t ∧ abandoned t 1 k .relocate ∧
        t = { s with
          map := t.map, frames := t.frames, pool := t.pool, jobs := t.jobs, relocations := [], log := t.log,
          nextSeq := t.nextSeq, lastGranted := 5 }) ∧
    ∀ (p : PortId) (r : Request) (session : Option Slot) (a : ReadAccess) (todo : List ReadAccess) (data : List Byte),
      nextClient s = some (p.val + 1) → (s.port p).requests = [] →
      (s.port p).inService = some ⟨r, session, .reading [source] (a :: todo) data⟩ → a.frame = source →
      (s.word source a.word).decode = .uncorrectable →
      ∃ t : State, exec (.storeArbiterGrant 0) s = .next t ∧ abandoned t 2 a.word .read ∧
        (t.port p).responses = (s.port p).responses ++ [⟨r.tag, .poisoned a.page⟩] ∧ (t.port p).inService = none ∧
        (∀ q, q ≠ p → t.port q = s.port q) ∧
        t = { s with
          map := t.map, frames := t.frames, pool := t.pool, jobs := t.jobs, relocations := [], log := t.log,
          nextSeq := t.nextSeq, ports := t.ports, lastGranted := p.val + 1 }

/-- An uncorrectable word in a session's own shadow, met by a READ of the session's port that names it, aborts the session with
reason MEDIA and the page of the shadow entry, and is reported in the READ's response (R14, R47, R50, R130, R131). The grant's
operand is as in log entry 5. -/
def Obligations.UncorrectableShadowWordAborts : Prop :=
  ∀ (p : PortId) (r : Request) (slot : Slot) (pins : List PF) (a : ReadAccess) (todo : List ReadAccess) (data : List Byte)
    (before : List ShadowEntry) (e : ShadowEntry) (after : List ShadowEntry) (s : State), s.QueueLaw →
    nextClient s = some (p.val + 1) → (s.port p).requests = [] → isAbortOp r.op = false →
    (s.port p).inService = some ⟨r, some slot, .reading pins (a :: todo) data⟩ →
    (s.session slot).state ≠ .free → (s.session slot).port = some p → (s.session slot).group = none →
    (s.session slot).shadows = before ++ e :: after → (∀ b ∈ before, b.frame ≠ a.frame) → e.frame = a.frame →
    (s.word a.frame a.word).decode = .uncorrectable → (s.frame a.frame).state = .shadow →
    (s.frame a.frame).owner = some (.session slot) →
    ∃ t : State, exec (.storeArbiterGrant 0) s = .next t ∧ (t.session slot).state = .free ∧
      (t.session slot).generation = (s.session slot).generation ∧
      (t.port p).responses = (s.port p).responses ++ [⟨r.tag, .aborted (.media e.page)⟩] ∧
      (t.port p).inService = none ∧ (t.frame a.frame).retireOnRelease = true ∧
      { s with lastGranted := p.val + 1 }.KeepsOthers t (· = slot) (fun _ => False) ∧ t.groups = s.groups ∧
      ∀ page, (t.entry page).frame = (s.entry page).frame ∧ (t.entry page).version = (s.entry page).version ∧
        (t.entry page).condition = (s.entry page).condition

/-- A write-back granted the store re-reads its word and rewrites it with the corrected data only where the syndrome and the
corrected data are still those of its entry; in every other case the word is not written. The entry leaves the list either
way, and nothing else changes (R128, R129). The grant's operand is as in log entry 5. -/
def Obligations.WriteBackComparesFirst : Prop :=
  ∀ (b : WriteBack) (rest : List WriteBack) (s : State), s.Quiet → nextClient s = some 7 → s.writeBacks = b :: rest →
    (s.frame b.frame).state ≠ .retired →
    let w := s.word b.frame b.word
    (w.diff = b.syndrome → w.decode = .correctable b.data →
      exec (.storeArbiterGrant 0) s =
        .next ({ s with writeBacks := rest, lastGranted := 7 }.writeWord b.frame b.word b.data)) ∧
    (¬ (w.diff = b.syndrome ∧ w.decode = .correctable b.data) →
      exec (.storeArbiterGrant 0) s = .next { s with writeBacks := rest, lastGranted := 7 })

/-- One word access of a placement on the shadowed path whose word is full, or partial and clean: every byte of the word that
lies in the span holds the write's byte after it, every other byte of a partial word what it held, with fresh check bits,
and no other word of the store changes (R31, R32, R58, R60). The grant's operand is as in log entry 5. -/
def Obligations.PlacementWritesTheSpan : Prop :=
  ∀ (p : PortId) (r : Request) (session : Option Slot) (pf : PF) (write : PendingWrite) (k : WordIx) (todo : List WordIx)
    (zeroed : Bool) (old : Word) (s : State), s.Quiet → s.StoreLaw → nextClient s = some (p.val + 1) →
    (s.port p).inService = some ⟨r, session, .placing pf write (k :: todo) zeroed⟩ →
    (s.word pf k).decode = .clean old →
    ∃ t : State, exec (.storeArbiterGrant 0) s = .next t ∧
      (∀ n < 4, byteOfWord (t.word pf k).bits n =
        if write.offset ≤ 4 * k.val + n ∧ 4 * k.val + n < write.offset + write.data.length
        then write.data.getD (4 * k.val + n - write.offset) 0 else byteOfWord old n) ∧
      (t.word pf k).diff = 0 ∧
      (∀ pf' k', ¬ (pf' = pf ∧ k' = k) → t.word pf' k' = s.word pf' k') ∧
      t = { s.setPort p { s.port p with inService := some ⟨r, session, .placing pf write todo zeroed⟩ } with
        store := t.store, lastGranted := p.val + 1 }

/-- The completion of a session job: it leaves the queue, a COPY's source is unpinned, the session is IDLE, and the WRITE in
service is answered OK with NEWCLAIM set, or for a granted write WRITE_DONE is queued (R26, R39, R70, R76, R88, R146). Here
the source stays MAPPED and nothing waits to follow. -/
def Obligations.JobCompletionReports : Prop :=
  ∀ (slot : Slot) (source : PF) (write : PendingWrite) (origin : Origin) (page : LP) (target : PF) (rest : List Job)
    (p : PortId) (s : State), s.jobs = ⟨.copy slot source write origin, page, target, .place []⟩ :: rest →
    s.relocations = [] → s.QueueLaw → (s.port p).requests = [] → (s.session slot).port = some p →
    (s.frame source).state = .mapped →
    let zeroed := decide (∃ e ∈ (s.session slot).shadows, e.page = page ∧ e.zeroed = true)
    let done : State :=
      ({ s with jobs := rest }.setFrame source { s.frame source with pins := (s.frame source).pins - 1 }).setSession slot
        { s.session slot with activity := .idle }
    (∀ r session, origin = .inService → (s.port p).inService = some ⟨r, session, .copying⟩ →
      exec .jobCompletion s = .next (done.setPort p
        { s.port p with
          responses := (s.port p).responses ++ [⟨r.tag, .writeOk true zeroed⟩]
          inService := none
          attn := s.settings.respMask[p] || (s.settings.noteMask[p] && !(s.port p).notices.isEmpty) })) ∧
    (origin = .granted → (s.port p).notices.length < 8 →
      exec .jobCompletion s = .next (done.setPort p
        { s.port p with
          notices := (s.port p).notices ++ [⟨.writeDone (s.handle slot) true zeroed, (s.port p).overrun⟩]
          overrun := false
          attn := (s.settings.respMask[p] && !(s.port p).responses.isEmpty) || s.settings.noteMask[p] })) ∧
    (origin = .granted → 8 ≤ (s.port p).notices.length →
      exec .jobCompletion s = .next (done.setPort p { s.port p with overrun := true }))

/-! ## Relocation and scrubbing -/

/-- The start of a relocation takes the head page off the list, makes the frame at the pool head MOVING for it, sets its
relocating flag, pins the source and queues the RELOCATE job; and it is taken exactly where the copy queue holds no RELOCATE,
the pool is not empty and no scrub read holds the page's frame (R8, R23, R25, R141). That the row commanded by itself then
changes nothing is the model's choice (log entry 2). -/
def Obligations.RelocationStartTakesHead : Prop :=
  ∀ (page : LP) (others : List LP) (s : State), s.relocations = page :: others →
    ((∃ j ∈ s.jobs, j.isRelocate = true) ∨ s.pool = [] ∨ (∃ k, s.scrub = some ⟨(s.entry page).frame, k⟩) →
      exec .relocationStart s = .next s) ∧
    ∀ pf rest, (∀ j ∈ s.jobs, j.isRelocate = false) → s.pool = pf :: rest →
      (∀ k, s.scrub ≠ some ⟨(s.entry page).frame, k⟩) → (s.entry page).frame ≠ pf →
      let source := (s.entry page).frame
      exec .relocationStart s =
        .next { ((s.setFrame pf { s.frame pf with state := .moving, owner := some (.page page) }).setFrame source
            { s.frame source with pins := (s.frame source).pins + 1 }).setEntry page
            { s.entry page with relocating := true } with
          pool := rest
          relocations := others
          jobs := s.jobs ++ [⟨.relocate source, page, pf, .fillRead 0⟩] }

/-- The switch at the end of a relocation: the page maps the target, its version, condition and claim unchanged, its relocating
flag cleared; a RELOCATED record, then the source, with no other pin, is RETIRED, flagged, with its RETIRED record (R4, R21,
R24, R29, R30, R143). Here no relocation is listed and no port has fault notices on. -/
def Obligations.RelocationSwitchMapsTarget : Prop :=
  ∀ (source : PF) (page : LP) (target : PF) (rest : List Job) (s : State),
    s.jobs = ⟨.relocate source, page, target, .place []⟩ :: rest → s.relocations = [] → s.QueueLaw →
    source ≠ target → (s.frame source).state = .mapped → (s.frame source).owner = some (.page page) →
    (s.frame source).pins = 1 → (s.frame target).state = .moving →
    (∀ p : PortId, s.settings.faultNotices[p] = false) →
    ∃ t : State, exec .relocationSwitch s = .next t ∧
      t.entry page = { s.entry page with frame := target, relocating := false } ∧
      t.frame target = { s.frame target with state := .mapped, owner := some (.page page) } ∧
      t.frame source =
        { s.frame source with state := .retired, owner := none, pins := 0, retireOnRelease := true } ∧
      (∀ pf, pf ≠ source → pf ≠ target → t.frame pf = s.frame pf) ∧
      (∀ other, other ≠ page → t.entry other = s.entry other) ∧
      (∃ kept, t.log = kept ++
        [{ seq := s.nextSeq, kind := .relocated, frame := source, word := none, syndrome := none,
           context := some .relocate, page := some page, handle := none },
         { seq := s.nextSeq + 1, kind := .retired, frame := source, word := none, syndrome := none, context := none,
           page := some page, handle := none }]) ∧
      t = { s with map := t.map, frames := t.frames, log := t.log, nextSeq := s.nextSeq + 2, jobs := rest }

/-- A scrub visit, at the tick that completes the period and where SCRUB_VISIT is commanded at the timer's expiry, takes the
first eligible frame from the cursor upward, wrapping; the cursor goes one past it, the frame is pinned and its read starts
(R25, R137, R138). That SCRUB_VISIT may also be given by itself is the model's reading (log entry 3). -/
def Obligations.ScrubVisitTakesNextFrame : Prop :=
  ∀ (pf : PF) (n : Nat) (s : State), s.scrub = none →
    (∀ i < n, scrubEligible s (s.cursor + Fin.ofNat 512 i) = false) → n < 512 → pf = s.cursor + Fin.ofNat 512 n →
    scrubEligible s pf = true →
    let visited := (s.setFrame pf { s.frame pf with pins := (s.frame pf).pins + 1 })
    (s.timer = some 0 → exec .scrubVisit s =
      .next { visited with timer := none, cursor := pf + 1, scrub := some ⟨pf, 0⟩ }) ∧
    (s.timer = some 1 → (∀ slot, (s.session slot).state = .free) → s.relocations = [] → s.QueueLaw → exec .tick s =
      .next { visited with timer := none, cursor := pf + 1, scrub := some ⟨pf, 0⟩ })

/-- The end of a scrub read releases its pin, examines the frame as it stands and restarts the timer: a MAPPED frame of a NORMAL
page at or above the threshold has its page appended to the relocation list, unless it is listed or four are; a SHADOW frame
at or above it is flagged; any other is left (R29, R137, R139, R140). Here a listed page cannot be started, the pool being
empty. -/
def Obligations.ScrubReadEndExamines : Prop :=
  ∀ (pf : PF) (s : State), s.scrub = some ⟨pf, 64⟩ → s.pool = [] → s.QueueLaw →
    (s.frame pf).state = .mapped ∨ (s.frame pf).state = .shadow →
    ∃ t : State, exec .scrubReadEnd s = .next t ∧
      (∀ page, (s.frame pf).state = .mapped → (s.frame pf).owner = some (.page page) →
        t.relocations = (if s.settings.retireThreshold ≤ (s.frame pf).corrected ∧ (s.entry page).condition = .normal ∧
            page ∉ s.relocations ∧ s.relocations.length < 4 then s.relocations ++ [page] else s.relocations)) ∧
      ((s.frame pf).state = .shadow → t.relocations = s.relocations) ∧
      t.frame pf =
        { s.frame pf with
          pins := (s.frame pf).pins - 1
          retireOnRelease := (s.frame pf).retireOnRelease || (decide ((s.frame pf).state = .shadow) &&
            decide (s.settings.retireThreshold ≤ (s.frame pf).corrected)) } ∧
      (∀ other, other ≠ pf → t.frame other = s.frame other) ∧
      t = { s with
        frames := t.frames, relocations := t.relocations, scrub := none,
        timer := if s.settings.scrubPeriod = 0 then none else some s.settings.scrubPeriod }

/-! ## What every step keeps -/

/-- Credits and the requests queued, in service and held stay four together at every port, and after a step no port has a request
to take with none in service: from every state in which this holds, every step keeps it (R164). -/
def Obligations.StepKeepsCreditsAndQueues : Prop :=
  ∀ s t : State, step s = .next t → (s.CreditLaw → t.CreditLaw) ∧ (s.QueueLaw → t.QueueLaw)

/-- Every step keeps every ATTN line as its queues and its mask have it (R157). -/
def Obligations.StepKeepsAttn : Prop :=
  ∀ s t : State, s.AttnLaw → step s = .next t → t.AttnLaw

/-- Every step keeps the free pool holding exactly the FREE frames, each once (R20, R22). -/
def Obligations.StepKeepsPool : Prop :=
  ∀ s t : State, s.PoolLaw → step s = .next t → t.PoolLaw

/-- Every step keeps the page map law: every page maps one MAPPED frame that it owns, so no two pages share one; shadow frames,
claims, jobs, waits and group members stay matched to the sessions that hold them; a COPY job's source stays MAPPED and its
page's, or HELD, and every operation that reads a frame keeps its pin on it (R2, R7, R20, R25, R26, R39, R65, R73, R110,
R141). -/
def Obligations.StepKeepsPageMapLaw : Prop :=
  ∀ s t : State, s.PageMapLaw → step s = .next t → t.PageMapLaw

/-- Every step keeps the fault log at 16 records or fewer with consecutive sequence numbers up to the next one (R133). -/
def Obligations.StepKeepsFaultLog : Prop :=
  ∀ s t : State, s.LogLaw → step s = .next t → t.LogLaw

/-- Every step keeps the bounds of the lists and counts: notice queues (R146), watch lists (R150), the relocation list (R140), the
write-back list (R128), corrected counts (R28); and the store in its one form. -/
def Obligations.StepKeepsBounds : Prop :=
  ∀ s t : State, step s = .next t → (s.NoticeLaw → t.NoticeLaw) ∧ (s.WatchLaw → t.WatchLaw) ∧ (s.ListLaw → t.ListLaw) ∧
    (s.CountLaw → t.CountLaw) ∧ (s.StoreLaw → t.StoreLaw)

/-- Every step keeps the settings record in range, every port within its quota, and every group IDLE exactly when it has no
member, with a closer port exactly while CLOSING (R43, R110, R111, R154). -/
def Obligations.StepKeepsSessionsAndGroups : Prop :=
  ∀ s t : State, step s = .next t →
    (s.SettingsLaw → t.SettingsLaw) ∧ (s.QuotaLaw → t.QuotaLaw) ∧ (s.GroupLaw → t.GroupLaw)

/-- Where the free pool holds the FREE frames, only a device reset brings a RETIRED frame back, clears a set retire_on_release
flag or lowers a corrected count (R21, R28, R29, R30). -/
def Obligations.OnlyDeviceResetRenewsFrames : Prop :=
  ∀ (c : Instr) (s t : State), s.PoolLaw → c ≠ .deviceReset → exec c s = .next t → ∀ pf, (s.frame pf).Ages (t.frame pf)

/-- Except at a device reset, a command leaves a page's version as it is or takes it on by exactly one step, 65535 being followed
by 1, from every state that meets the page map law; and in every state a version that is not 0 never becomes 0 again (R5). -/
def Obligations.VersionsOnlyStep : Prop :=
  ∀ (c : Instr) (s t : State) (page : LP), c ≠ .deviceReset → exec c s = .next t →
    (s.PageMapLaw → (t.entry page).version = (s.entry page).version ∨
      (t.entry page).version =
        (if (s.entry page).version = 65535#16 then 1 else (s.entry page).version + 1)) ∧
    ((s.entry page).version ≠ 0 → (t.entry page).version ≠ 0)

/-- Only a grant of the store arbiter and the initialization sweep change the store, only a grant and a device reset the position
last granted, only the tick, a scrub visit and a device reset the scrub cursor, only a device reset, the sweep and its end
the standing between reset and service (R31, R33, R35, R138). The standing is the model's own field (log entry 11), and that no
command changes the queue it came from is the model's own choice (log entry 4). -/
def Obligations.OnlyTheseCommandsChange : Prop :=
  ∀ (c : Instr) (s t : State), exec c s = .next t →
    ((∀ flips, c ≠ .storeArbiterGrant flips) → c ≠ .initializationSweep → t.store = s.store) ∧
    ((∀ flips, c ≠ .storeArbiterGrant flips) → c ≠ .deviceReset → t.lastGranted = s.lastGranted) ∧
    (c ≠ .tick → c ≠ .scrubVisit → c ≠ .deviceReset → t.cursor = s.cursor) ∧
    (c ≠ .deviceReset → c ≠ .initializationSweep → c ≠ .sweepEnd → t.phase = s.phase) ∧
    t.pending = s.pending
end

