-- ==== Sys2Proof/Laws/State.lean ====
section
/-! SUPPORT. What each record update of the state leaves in each field and in each record: one lemma per field per update. -/

namespace Sys2Proof.Machine

variable (s : State)

/-! ### setEntry -/

@[simp] theorem State.setEntry_phase (page : LP) (e : MapEntry) : (s.setEntry page e).phase = s.phase := rfl
@[simp] theorem State.setEntry_waits (page : LP) (e : MapEntry) : (s.setEntry page e).waits = s.waits := rfl
@[simp] theorem State.setEntry_frames (page : LP) (e : MapEntry) : (s.setEntry page e).frames = s.frames := rfl
@[simp] theorem State.setEntry_pool (page : LP) (e : MapEntry) : (s.setEntry page e).pool = s.pool := rfl
@[simp] theorem State.setEntry_store (page : LP) (e : MapEntry) : (s.setEntry page e).store = s.store := rfl
@[simp] theorem State.setEntry_lastGranted (page : LP) (e : MapEntry) : (s.setEntry page e).lastGranted = s.lastGranted := rfl
@[simp] theorem State.setEntry_writeBacks (page : LP) (e : MapEntry) : (s.setEntry page e).writeBacks = s.writeBacks := rfl
@[simp] theorem State.setEntry_sessions (page : LP) (e : MapEntry) : (s.setEntry page e).sessions = s.sessions := rfl
@[simp] theorem State.setEntry_groups (page : LP) (e : MapEntry) : (s.setEntry page e).groups = s.groups := rfl
@[simp] theorem State.setEntry_jobs (page : LP) (e : MapEntry) : (s.setEntry page e).jobs = s.jobs := rfl
@[simp] theorem State.setEntry_relocations (page : LP) (e : MapEntry) : (s.setEntry page e).relocations = s.relocations := rfl
@[simp] theorem State.setEntry_log (page : LP) (e : MapEntry) : (s.setEntry page e).log = s.log := rfl
@[simp] theorem State.setEntry_nextSeq (page : LP) (e : MapEntry) : (s.setEntry page e).nextSeq = s.nextSeq := rfl
@[simp] theorem State.setEntry_cursor (page : LP) (e : MapEntry) : (s.setEntry page e).cursor = s.cursor := rfl
@[simp] theorem State.setEntry_timer (page : LP) (e : MapEntry) : (s.setEntry page e).timer = s.timer := rfl
@[simp] theorem State.setEntry_scrub (page : LP) (e : MapEntry) : (s.setEntry page e).scrub = s.scrub := rfl
@[simp] theorem State.setEntry_settings (page : LP) (e : MapEntry) : (s.setEntry page e).settings = s.settings := rfl
@[simp] theorem State.setEntry_ports (page : LP) (e : MapEntry) : (s.setEntry page e).ports = s.ports := rfl
@[simp] theorem State.setEntry_draws (page : LP) (e : MapEntry) : (s.setEntry page e).draws = s.draws := rfl
@[simp] theorem State.setEntry_pending (page : LP) (e : MapEntry) : (s.setEntry page e).pending = s.pending := rfl
@[simp] theorem State.setEntry_frame (page : LP) (e : MapEntry) (x : PF) : (s.setEntry page e).frame x = s.frame x := rfl
@[simp] theorem State.setEntry_session (page : LP) (e : MapEntry) (x : Slot) : (s.setEntry page e).session x = s.session x := rfl
@[simp] theorem State.setEntry_group (page : LP) (e : MapEntry) (x : GroupIx) : (s.setEntry page e).group x = s.group x := rfl
@[simp] theorem State.setEntry_port (page : LP) (e : MapEntry) (x : PortId) : (s.setEntry page e).port x = s.port x := rfl
@[simp] theorem State.setEntry_word (page : LP) (e : MapEntry) (x : PF) (j : WordIx) : (s.setEntry page e).word x j = s.word x j := rfl
@[simp] theorem State.setEntry_handle (page : LP) (e : MapEntry) (x : Slot) : (s.setEntry page e).handle x = s.handle x := rfl

/-! ### setFrame -/

@[simp] theorem State.setFrame_phase (pf : PF) (f : FrameRec) : (s.setFrame pf f).phase = s.phase := rfl
@[simp] theorem State.setFrame_map (pf : PF) (f : FrameRec) : (s.setFrame pf f).map = s.map := rfl
@[simp] theorem State.setFrame_waits (pf : PF) (f : FrameRec) : (s.setFrame pf f).waits = s.waits := rfl
@[simp] theorem State.setFrame_pool (pf : PF) (f : FrameRec) : (s.setFrame pf f).pool = s.pool := rfl
@[simp] theorem State.setFrame_store (pf : PF) (f : FrameRec) : (s.setFrame pf f).store = s.store := rfl
@[simp] theorem State.setFrame_lastGranted (pf : PF) (f : FrameRec) : (s.setFrame pf f).lastGranted = s.lastGranted := rfl
@[simp] theorem State.setFrame_writeBacks (pf : PF) (f : FrameRec) : (s.setFrame pf f).writeBacks = s.writeBacks := rfl
@[simp] theorem State.setFrame_sessions (pf : PF) (f : FrameRec) : (s.setFrame pf f).sessions = s.sessions := rfl
@[simp] theorem State.setFrame_groups (pf : PF) (f : FrameRec) : (s.setFrame pf f).groups = s.groups := rfl
@[simp] theorem State.setFrame_jobs (pf : PF) (f : FrameRec) : (s.setFrame pf f).jobs = s.jobs := rfl
@[simp] theorem State.setFrame_relocations (pf : PF) (f : FrameRec) : (s.setFrame pf f).relocations = s.relocations := rfl
@[simp] theorem State.setFrame_log (pf : PF) (f : FrameRec) : (s.setFrame pf f).log = s.log := rfl
@[simp] theorem State.setFrame_nextSeq (pf : PF) (f : FrameRec) : (s.setFrame pf f).nextSeq = s.nextSeq := rfl
@[simp] theorem State.setFrame_cursor (pf : PF) (f : FrameRec) : (s.setFrame pf f).cursor = s.cursor := rfl
@[simp] theorem State.setFrame_timer (pf : PF) (f : FrameRec) : (s.setFrame pf f).timer = s.timer := rfl
@[simp] theorem State.setFrame_scrub (pf : PF) (f : FrameRec) : (s.setFrame pf f).scrub = s.scrub := rfl
@[simp] theorem State.setFrame_settings (pf : PF) (f : FrameRec) : (s.setFrame pf f).settings = s.settings := rfl
@[simp] theorem State.setFrame_ports (pf : PF) (f : FrameRec) : (s.setFrame pf f).ports = s.ports := rfl
@[simp] theorem State.setFrame_draws (pf : PF) (f : FrameRec) : (s.setFrame pf f).draws = s.draws := rfl
@[simp] theorem State.setFrame_pending (pf : PF) (f : FrameRec) : (s.setFrame pf f).pending = s.pending := rfl
@[simp] theorem State.setFrame_entry (pf : PF) (f : FrameRec) (x : LP) : (s.setFrame pf f).entry x = s.entry x := rfl
@[simp] theorem State.setFrame_session (pf : PF) (f : FrameRec) (x : Slot) : (s.setFrame pf f).session x = s.session x := rfl
@[simp] theorem State.setFrame_group (pf : PF) (f : FrameRec) (x : GroupIx) : (s.setFrame pf f).group x = s.group x := rfl
@[simp] theorem State.setFrame_port (pf : PF) (f : FrameRec) (x : PortId) : (s.setFrame pf f).port x = s.port x := rfl
@[simp] theorem State.setFrame_word (pf : PF) (f : FrameRec) (x : PF) (j : WordIx) : (s.setFrame pf f).word x j = s.word x j := rfl
@[simp] theorem State.setFrame_handle (pf : PF) (f : FrameRec) (x : Slot) : (s.setFrame pf f).handle x = s.handle x := rfl

/-! ### setSession -/

@[simp] theorem State.setSession_phase (slot : Slot) (r : SessionRec) : (s.setSession slot r).phase = s.phase := rfl
@[simp] theorem State.setSession_map (slot : Slot) (r : SessionRec) : (s.setSession slot r).map = s.map := rfl
@[simp] theorem State.setSession_waits (slot : Slot) (r : SessionRec) : (s.setSession slot r).waits = s.waits := rfl
@[simp] theorem State.setSession_frames (slot : Slot) (r : SessionRec) : (s.setSession slot r).frames = s.frames := rfl
@[simp] theorem State.setSession_pool (slot : Slot) (r : SessionRec) : (s.setSession slot r).pool = s.pool := rfl
@[simp] theorem State.setSession_store (slot : Slot) (r : SessionRec) : (s.setSession slot r).store = s.store := rfl
@[simp] theorem State.setSession_lastGranted (slot : Slot) (r : SessionRec) : (s.setSession slot r).lastGranted = s.lastGranted := rfl
@[simp] theorem State.setSession_writeBacks (slot : Slot) (r : SessionRec) : (s.setSession slot r).writeBacks = s.writeBacks := rfl
@[simp] theorem State.setSession_groups (slot : Slot) (r : SessionRec) : (s.setSession slot r).groups = s.groups := rfl
@[simp] theorem State.setSession_jobs (slot : Slot) (r : SessionRec) : (s.setSession slot r).jobs = s.jobs := rfl
@[simp] theorem State.setSession_relocations (slot : Slot) (r : SessionRec) : (s.setSession slot r).relocations = s.relocations := rfl
@[simp] theorem State.setSession_log (slot : Slot) (r : SessionRec) : (s.setSession slot r).log = s.log := rfl
@[simp] theorem State.setSession_nextSeq (slot : Slot) (r : SessionRec) : (s.setSession slot r).nextSeq = s.nextSeq := rfl
@[simp] theorem State.setSession_cursor (slot : Slot) (r : SessionRec) : (s.setSession slot r).cursor = s.cursor := rfl
@[simp] theorem State.setSession_timer (slot : Slot) (r : SessionRec) : (s.setSession slot r).timer = s.timer := rfl
@[simp] theorem State.setSession_scrub (slot : Slot) (r : SessionRec) : (s.setSession slot r).scrub = s.scrub := rfl
@[simp] theorem State.setSession_settings (slot : Slot) (r : SessionRec) : (s.setSession slot r).settings = s.settings := rfl
@[simp] theorem State.setSession_ports (slot : Slot) (r : SessionRec) : (s.setSession slot r).ports = s.ports := rfl
@[simp] theorem State.setSession_draws (slot : Slot) (r : SessionRec) : (s.setSession slot r).draws = s.draws := rfl
@[simp] theorem State.setSession_pending (slot : Slot) (r : SessionRec) : (s.setSession slot r).pending = s.pending := rfl
@[simp] theorem State.setSession_entry (slot : Slot) (r : SessionRec) (x : LP) : (s.setSession slot r).entry x = s.entry x := rfl
@[simp] theorem State.setSession_frame (slot : Slot) (r : SessionRec) (x : PF) : (s.setSession slot r).frame x = s.frame x := rfl
@[simp] theorem State.setSession_group (slot : Slot) (r : SessionRec) (x : GroupIx) : (s.setSession slot r).group x = s.group x := rfl
@[simp] theorem State.setSession_port (slot : Slot) (r : SessionRec) (x : PortId) : (s.setSession slot r).port x = s.port x := rfl
@[simp] theorem State.setSession_word (slot : Slot) (r : SessionRec) (x : PF) (j : WordIx) : (s.setSession slot r).word x j = s.word x j := rfl

/-! ### setGroup -/

@[simp] theorem State.setGroup_phase (g : GroupIx) (r : GroupRec) : (s.setGroup g r).phase = s.phase := rfl
@[simp] theorem State.setGroup_map (g : GroupIx) (r : GroupRec) : (s.setGroup g r).map = s.map := rfl
@[simp] theorem State.setGroup_waits (g : GroupIx) (r : GroupRec) : (s.setGroup g r).waits = s.waits := rfl
@[simp] theorem State.setGroup_frames (g : GroupIx) (r : GroupRec) : (s.setGroup g r).frames = s.frames := rfl
@[simp] theorem State.setGroup_pool (g : GroupIx) (r : GroupRec) : (s.setGroup g r).pool = s.pool := rfl
@[simp] theorem State.setGroup_store (g : GroupIx) (r : GroupRec) : (s.setGroup g r).store = s.store := rfl
@[simp] theorem State.setGroup_lastGranted (g : GroupIx) (r : GroupRec) : (s.setGroup g r).lastGranted = s.lastGranted := rfl
@[simp] theorem State.setGroup_writeBacks (g : GroupIx) (r : GroupRec) : (s.setGroup g r).writeBacks = s.writeBacks := rfl
@[simp] theorem State.setGroup_sessions (g : GroupIx) (r : GroupRec) : (s.setGroup g r).sessions = s.sessions := rfl
@[simp] theorem State.setGroup_jobs (g : GroupIx) (r : GroupRec) : (s.setGroup g r).jobs = s.jobs := rfl
@[simp] theorem State.setGroup_relocations (g : GroupIx) (r : GroupRec) : (s.setGroup g r).relocations = s.relocations := rfl
@[simp] theorem State.setGroup_log (g : GroupIx) (r : GroupRec) : (s.setGroup g r).log = s.log := rfl
@[simp] theorem State.setGroup_nextSeq (g : GroupIx) (r : GroupRec) : (s.setGroup g r).nextSeq = s.nextSeq := rfl
@[simp] theorem State.setGroup_cursor (g : GroupIx) (r : GroupRec) : (s.setGroup g r).cursor = s.cursor := rfl
@[simp] theorem State.setGroup_timer (g : GroupIx) (r : GroupRec) : (s.setGroup g r).timer = s.timer := rfl
@[simp] theorem State.setGroup_scrub (g : GroupIx) (r : GroupRec) : (s.setGroup g r).scrub = s.scrub := rfl
@[simp] theorem State.setGroup_settings (g : GroupIx) (r : GroupRec) : (s.setGroup g r).settings = s.settings := rfl
@[simp] theorem State.setGroup_ports (g : GroupIx) (r : GroupRec) : (s.setGroup g r).ports = s.ports := rfl
@[simp] theorem State.setGroup_draws (g : GroupIx) (r : GroupRec) : (s.setGroup g r).draws = s.draws := rfl
@[simp] theorem State.setGroup_pending (g : GroupIx) (r : GroupRec) : (s.setGroup g r).pending = s.pending := rfl
@[simp] theorem State.setGroup_entry (g : GroupIx) (r : GroupRec) (x : LP) : (s.setGroup g r).entry x = s.entry x := rfl
@[simp] theorem State.setGroup_frame (g : GroupIx) (r : GroupRec) (x : PF) : (s.setGroup g r).frame x = s.frame x := rfl
@[simp] theorem State.setGroup_session (g : GroupIx) (r : GroupRec) (x : Slot) : (s.setGroup g r).session x = s.session x := rfl
@[simp] theorem State.setGroup_port (g : GroupIx) (r : GroupRec) (x : PortId) : (s.setGroup g r).port x = s.port x := rfl
@[simp] theorem State.setGroup_word (g : GroupIx) (r : GroupRec) (x : PF) (j : WordIx) : (s.setGroup g r).word x j = s.word x j := rfl
@[simp] theorem State.setGroup_handle (g : GroupIx) (r : GroupRec) (x : Slot) : (s.setGroup g r).handle x = s.handle x := rfl

/-! ### setPort -/

@[simp] theorem State.setPort_phase (p : PortId) (r : PortRec) : (s.setPort p r).phase = s.phase := rfl
@[simp] theorem State.setPort_map (p : PortId) (r : PortRec) : (s.setPort p r).map = s.map := rfl
@[simp] theorem State.setPort_waits (p : PortId) (r : PortRec) : (s.setPort p r).waits = s.waits := rfl
@[simp] theorem State.setPort_frames (p : PortId) (r : PortRec) : (s.setPort p r).frames = s.frames := rfl
@[simp] theorem State.setPort_pool (p : PortId) (r : PortRec) : (s.setPort p r).pool = s.pool := rfl
@[simp] theorem State.setPort_store (p : PortId) (r : PortRec) : (s.setPort p r).store = s.store := rfl
@[simp] theorem State.setPort_lastGranted (p : PortId) (r : PortRec) : (s.setPort p r).lastGranted = s.lastGranted := rfl
@[simp] theorem State.setPort_writeBacks (p : PortId) (r : PortRec) : (s.setPort p r).writeBacks = s.writeBacks := rfl
@[simp] theorem State.setPort_sessions (p : PortId) (r : PortRec) : (s.setPort p r).sessions = s.sessions := rfl
@[simp] theorem State.setPort_groups (p : PortId) (r : PortRec) : (s.setPort p r).groups = s.groups := rfl
@[simp] theorem State.setPort_jobs (p : PortId) (r : PortRec) : (s.setPort p r).jobs = s.jobs := rfl
@[simp] theorem State.setPort_relocations (p : PortId) (r : PortRec) : (s.setPort p r).relocations = s.relocations := rfl
@[simp] theorem State.setPort_log (p : PortId) (r : PortRec) : (s.setPort p r).log = s.log := rfl
@[simp] theorem State.setPort_nextSeq (p : PortId) (r : PortRec) : (s.setPort p r).nextSeq = s.nextSeq := rfl
@[simp] theorem State.setPort_cursor (p : PortId) (r : PortRec) : (s.setPort p r).cursor = s.cursor := rfl
@[simp] theorem State.setPort_timer (p : PortId) (r : PortRec) : (s.setPort p r).timer = s.timer := rfl
@[simp] theorem State.setPort_scrub (p : PortId) (r : PortRec) : (s.setPort p r).scrub = s.scrub := rfl
@[simp] theorem State.setPort_settings (p : PortId) (r : PortRec) : (s.setPort p r).settings = s.settings := rfl
@[simp] theorem State.setPort_draws (p : PortId) (r : PortRec) : (s.setPort p r).draws = s.draws := rfl
@[simp] theorem State.setPort_pending (p : PortId) (r : PortRec) : (s.setPort p r).pending = s.pending := rfl
@[simp] theorem State.setPort_entry (p : PortId) (r : PortRec) (x : LP) : (s.setPort p r).entry x = s.entry x := rfl
@[simp] theorem State.setPort_frame (p : PortId) (r : PortRec) (x : PF) : (s.setPort p r).frame x = s.frame x := rfl
@[simp] theorem State.setPort_session (p : PortId) (r : PortRec) (x : Slot) : (s.setPort p r).session x = s.session x := rfl
@[simp] theorem State.setPort_group (p : PortId) (r : PortRec) (x : GroupIx) : (s.setPort p r).group x = s.group x := rfl
@[simp] theorem State.setPort_word (p : PortId) (r : PortRec) (x : PF) (j : WordIx) : (s.setPort p r).word x j = s.word x j := rfl
@[simp] theorem State.setPort_handle (p : PortId) (r : PortRec) (x : Slot) : (s.setPort p r).handle x = s.handle x := rfl

/-! ### writeWord -/

@[simp] theorem State.writeWord_phase (pf : PF) (k : WordIx) (data : Word) : (s.writeWord pf k data).phase = s.phase := rfl
@[simp] theorem State.writeWord_map (pf : PF) (k : WordIx) (data : Word) : (s.writeWord pf k data).map = s.map := rfl
@[simp] theorem State.writeWord_waits (pf : PF) (k : WordIx) (data : Word) : (s.writeWord pf k data).waits = s.waits := rfl
@[simp] theorem State.writeWord_frames (pf : PF) (k : WordIx) (data : Word) : (s.writeWord pf k data).frames = s.frames := rfl
@[simp] theorem State.writeWord_pool (pf : PF) (k : WordIx) (data : Word) : (s.writeWord pf k data).pool = s.pool := rfl
@[simp] theorem State.writeWord_lastGranted (pf : PF) (k : WordIx) (data : Word) : (s.writeWord pf k data).lastGranted = s.lastGranted := rfl
@[simp] theorem State.writeWord_writeBacks (pf : PF) (k : WordIx) (data : Word) : (s.writeWord pf k data).writeBacks = s.writeBacks := rfl
@[simp] theorem State.writeWord_sessions (pf : PF) (k : WordIx) (data : Word) : (s.writeWord pf k data).sessions = s.sessions := rfl
@[simp] theorem State.writeWord_groups (pf : PF) (k : WordIx) (data : Word) : (s.writeWord pf k data).groups = s.groups := rfl
@[simp] theorem State.writeWord_jobs (pf : PF) (k : WordIx) (data : Word) : (s.writeWord pf k data).jobs = s.jobs := rfl
@[simp] theorem State.writeWord_relocations (pf : PF) (k : WordIx) (data : Word) : (s.writeWord pf k data).relocations = s.relocations := rfl
@[simp] theorem State.writeWord_log (pf : PF) (k : WordIx) (data : Word) : (s.writeWord pf k data).log = s.log := rfl
@[simp] theorem State.writeWord_nextSeq (pf : PF) (k : WordIx) (data : Word) : (s.writeWord pf k data).nextSeq = s.nextSeq := rfl
@[simp] theorem State.writeWord_cursor (pf : PF) (k : WordIx) (data : Word) : (s.writeWord pf k data).cursor = s.cursor := rfl
@[simp] theorem State.writeWord_timer (pf : PF) (k : WordIx) (data : Word) : (s.writeWord pf k data).timer = s.timer := rfl
@[simp] theorem State.writeWord_scrub (pf : PF) (k : WordIx) (data : Word) : (s.writeWord pf k data).scrub = s.scrub := rfl
@[simp] theorem State.writeWord_settings (pf : PF) (k : WordIx) (data : Word) : (s.writeWord pf k data).settings = s.settings := rfl
@[simp] theorem State.writeWord_ports (pf : PF) (k : WordIx) (data : Word) : (s.writeWord pf k data).ports = s.ports := rfl
@[simp] theorem State.writeWord_draws (pf : PF) (k : WordIx) (data : Word) : (s.writeWord pf k data).draws = s.draws := rfl
@[simp] theorem State.writeWord_pending (pf : PF) (k : WordIx) (data : Word) : (s.writeWord pf k data).pending = s.pending := rfl
@[simp] theorem State.writeWord_entry (pf : PF) (k : WordIx) (data : Word) (x : LP) : (s.writeWord pf k data).entry x = s.entry x := rfl
@[simp] theorem State.writeWord_frame (pf : PF) (k : WordIx) (data : Word) (x : PF) : (s.writeWord pf k data).frame x = s.frame x := rfl
@[simp] theorem State.writeWord_session (pf : PF) (k : WordIx) (data : Word) (x : Slot) : (s.writeWord pf k data).session x = s.session x := rfl
@[simp] theorem State.writeWord_group (pf : PF) (k : WordIx) (data : Word) (x : GroupIx) : (s.writeWord pf k data).group x = s.group x := rfl
@[simp] theorem State.writeWord_port (pf : PF) (k : WordIx) (data : Word) (x : PortId) : (s.writeWord pf k data).port x = s.port x := rfl
@[simp] theorem State.writeWord_handle (pf : PF) (k : WordIx) (data : Word) (x : Slot) : (s.writeWord pf k data).handle x = s.handle x := rfl

/-! ### disturbWord -/

@[simp] theorem State.disturbWord_phase (pf : PF) (k : WordIx) (flips : BitVec 39) : (s.disturbWord pf k flips).phase = s.phase := rfl
@[simp] theorem State.disturbWord_map (pf : PF) (k : WordIx) (flips : BitVec 39) : (s.disturbWord pf k flips).map = s.map := rfl
@[simp] theorem State.disturbWord_waits (pf : PF) (k : WordIx) (flips : BitVec 39) : (s.disturbWord pf k flips).waits = s.waits := rfl
@[simp] theorem State.disturbWord_frames (pf : PF) (k : WordIx) (flips : BitVec 39) : (s.disturbWord pf k flips).frames = s.frames := rfl
@[simp] theorem State.disturbWord_pool (pf : PF) (k : WordIx) (flips : BitVec 39) : (s.disturbWord pf k flips).pool = s.pool := rfl
@[simp] theorem State.disturbWord_lastGranted (pf : PF) (k : WordIx) (flips : BitVec 39) : (s.disturbWord pf k flips).lastGranted = s.lastGranted := rfl
@[simp] theorem State.disturbWord_writeBacks (pf : PF) (k : WordIx) (flips : BitVec 39) : (s.disturbWord pf k flips).writeBacks = s.writeBacks := rfl
@[simp] theorem State.disturbWord_sessions (pf : PF) (k : WordIx) (flips : BitVec 39) : (s.disturbWord pf k flips).sessions = s.sessions := rfl
@[simp] theorem State.disturbWord_groups (pf : PF) (k : WordIx) (flips : BitVec 39) : (s.disturbWord pf k flips).groups = s.groups := rfl
@[simp] theorem State.disturbWord_jobs (pf : PF) (k : WordIx) (flips : BitVec 39) : (s.disturbWord pf k flips).jobs = s.jobs := rfl
@[simp] theorem State.disturbWord_relocations (pf : PF) (k : WordIx) (flips : BitVec 39) : (s.disturbWord pf k flips).relocations = s.relocations := rfl
@[simp] theorem State.disturbWord_log (pf : PF) (k : WordIx) (flips : BitVec 39) : (s.disturbWord pf k flips).log = s.log := rfl
@[simp] theorem State.disturbWord_nextSeq (pf : PF) (k : WordIx) (flips : BitVec 39) : (s.disturbWord pf k flips).nextSeq = s.nextSeq := rfl
@[simp] theorem State.disturbWord_cursor (pf : PF) (k : WordIx) (flips : BitVec 39) : (s.disturbWord pf k flips).cursor = s.cursor := rfl
@[simp] theorem State.disturbWord_timer (pf : PF) (k : WordIx) (flips : BitVec 39) : (s.disturbWord pf k flips).timer = s.timer := rfl
@[simp] theorem State.disturbWord_scrub (pf : PF) (k : WordIx) (flips : BitVec 39) : (s.disturbWord pf k flips).scrub = s.scrub := rfl
@[simp] theorem State.disturbWord_settings (pf : PF) (k : WordIx) (flips : BitVec 39) : (s.disturbWord pf k flips).settings = s.settings := rfl
@[simp] theorem State.disturbWord_ports (pf : PF) (k : WordIx) (flips : BitVec 39) : (s.disturbWord pf k flips).ports = s.ports := rfl
@[simp] theorem State.disturbWord_draws (pf : PF) (k : WordIx) (flips : BitVec 39) : (s.disturbWord pf k flips).draws = s.draws := rfl
@[simp] theorem State.disturbWord_pending (pf : PF) (k : WordIx) (flips : BitVec 39) : (s.disturbWord pf k flips).pending = s.pending := rfl
@[simp] theorem State.disturbWord_entry (pf : PF) (k : WordIx) (flips : BitVec 39) (x : LP) : (s.disturbWord pf k flips).entry x = s.entry x := rfl
@[simp] theorem State.disturbWord_frame (pf : PF) (k : WordIx) (flips : BitVec 39) (x : PF) : (s.disturbWord pf k flips).frame x = s.frame x := rfl
@[simp] theorem State.disturbWord_session (pf : PF) (k : WordIx) (flips : BitVec 39) (x : Slot) : (s.disturbWord pf k flips).session x = s.session x := rfl
@[simp] theorem State.disturbWord_group (pf : PF) (k : WordIx) (flips : BitVec 39) (x : GroupIx) : (s.disturbWord pf k flips).group x = s.group x := rfl
@[simp] theorem State.disturbWord_port (pf : PF) (k : WordIx) (flips : BitVec 39) (x : PortId) : (s.disturbWord pf k flips).port x = s.port x := rfl
@[simp] theorem State.disturbWord_handle (pf : PF) (k : WordIx) (flips : BitVec 39) (x : Slot) : (s.disturbWord pf k flips).handle x = s.handle x := rfl

/-! ### The record that was replaced, and the others -/

@[simp] theorem State.setEntry_entry_self (page : LP) (r : MapEntry) : (s.setEntry page r).entry page = r := by
  simp [State.setEntry, State.entry]

theorem State.setEntry_entry_of_ne {page q : LP} (r : MapEntry) (h : q ≠ page) : (s.setEntry page r).entry q = s.entry q := by
  have h' : ¬ page.val = q.val := fun e => h (Fin.ext e.symm)
  simp [State.setEntry, State.entry, h']

theorem State.setEntry_entry (page q : LP) (r : MapEntry) :
    (s.setEntry page r).entry q = if q = page then r else s.entry q := by
  split
  · next h => rw [h, State.setEntry_entry_self]
  · next h => exact State.setEntry_entry_of_ne s r h

@[simp] theorem State.setEntry_setEntry (page : LP) (r r' : MapEntry) : (s.setEntry page r).setEntry page r' = s.setEntry page r' := by
  simp [State.setEntry]

@[simp] theorem State.setEntry_same (page : LP) : s.setEntry page (s.entry page) = s := by
  simp [State.setEntry, State.entry]

@[simp] theorem State.setFrame_frame_self (pf : PF) (r : FrameRec) : (s.setFrame pf r).frame pf = r := by
  simp [State.setFrame, State.frame]

theorem State.setFrame_frame_of_ne {pf q : PF} (r : FrameRec) (h : q ≠ pf) : (s.setFrame pf r).frame q = s.frame q := by
  have h' : ¬ pf.val = q.val := fun e => h (Fin.ext e.symm)
  simp [State.setFrame, State.frame, h']

theorem State.setFrame_frame (pf q : PF) (r : FrameRec) :
    (s.setFrame pf r).frame q = if q = pf then r else s.frame q := by
  split
  · next h => rw [h, State.setFrame_frame_self]
  · next h => exact State.setFrame_frame_of_ne s r h

@[simp] theorem State.setFrame_setFrame (pf : PF) (r r' : FrameRec) : (s.setFrame pf r).setFrame pf r' = s.setFrame pf r' := by
  simp [State.setFrame]

@[simp] theorem State.setFrame_same (pf : PF) : s.setFrame pf (s.frame pf) = s := by
  simp [State.setFrame, State.frame]

@[simp] theorem State.setSession_session_self (slot : Slot) (r : SessionRec) : (s.setSession slot r).session slot = r := by
  simp [State.setSession, State.session]

theorem State.setSession_session_of_ne {slot q : Slot} (r : SessionRec) (h : q ≠ slot) : (s.setSession slot r).session q = s.session q := by
  have h' : ¬ slot.val = q.val := fun e => h (Fin.ext e.symm)
  simp [State.setSession, State.session, h']

theorem State.setSession_session (slot q : Slot) (r : SessionRec) :
    (s.setSession slot r).session q = if q = slot then r else s.session q := by
  split
  · next h => rw [h, State.setSession_session_self]
  · next h => exact State.setSession_session_of_ne s r h

@[simp] theorem State.setSession_setSession (slot : Slot) (r r' : SessionRec) : (s.setSession slot r).setSession slot r' = s.setSession slot r' := by
  simp [State.setSession]

@[simp] theorem State.setSession_same (slot : Slot) : s.setSession slot (s.session slot) = s := by
  simp [State.setSession, State.session]

@[simp] theorem State.setGroup_group_self (g : GroupIx) (r : GroupRec) : (s.setGroup g r).group g = r := by
  simp [State.setGroup, State.group]

theorem State.setGroup_group_of_ne {g q : GroupIx} (r : GroupRec) (h : q ≠ g) : (s.setGroup g r).group q = s.group q := by
  have h' : ¬ g.val = q.val := fun e => h (Fin.ext e.symm)
  simp [State.setGroup, State.group, h']

theorem State.setGroup_group (g q : GroupIx) (r : GroupRec) :
    (s.setGroup g r).group q = if q = g then r else s.group q := by
  split
  · next h => rw [h, State.setGroup_group_self]
  · next h => exact State.setGroup_group_of_ne s r h

@[simp] theorem State.setGroup_setGroup (g : GroupIx) (r r' : GroupRec) : (s.setGroup g r).setGroup g r' = s.setGroup g r' := by
  simp [State.setGroup]

@[simp] theorem State.setGroup_same (g : GroupIx) : s.setGroup g (s.group g) = s := by
  simp [State.setGroup, State.group]

@[simp] theorem State.setPort_port_self (p : PortId) (r : PortRec) : (s.setPort p r).port p = r := by
  simp [State.setPort, State.port]

theorem State.setPort_port_of_ne {p q : PortId} (r : PortRec) (h : q ≠ p) : (s.setPort p r).port q = s.port q := by
  have h' : ¬ p.val = q.val := fun e => h (Fin.ext e.symm)
  simp [State.setPort, State.port, h']

theorem State.setPort_port (p q : PortId) (r : PortRec) :
    (s.setPort p r).port q = if q = p then r else s.port q := by
  split
  · next h => rw [h, State.setPort_port_self]
  · next h => exact State.setPort_port_of_ne s r h

@[simp] theorem State.setPort_setPort (p : PortId) (r r' : PortRec) : (s.setPort p r).setPort p r' = s.setPort p r' := by
  simp [State.setPort]

@[simp] theorem State.setPort_same (p : PortId) : s.setPort p (s.port p) = s := by
  simp [State.setPort, State.port]

end Sys2Proof.Machine
end

