-- ==== Sys2Proof/Laws/Ops.lean ====
section
/-! SUPPORT. The frame of each shared operation: the fields it leaves as they were, said once for each; and the queues and
counters it changes. -/

namespace Sys2Proof.Machine

variable (s : State)

/-- A notice changes its port alone. -/
@[simp] theorem queueNotice_frame (p : PortId) (body : NoticeBody) :
    (queueNotice p body s).phase = s.phase ∧ (queueNotice p body s).map = s.map
     ∧ (∀ x, (queueNotice p body s).entry x = s.entry x) ∧ (queueNotice p body s).waits = s.waits
     ∧ (queueNotice p body s).frames = s.frames ∧ (∀ x, (queueNotice p body s).frame x = s.frame x)
     ∧ (queueNotice p body s).pool = s.pool ∧ (queueNotice p body s).store = s.store
     ∧ (∀ x k, (queueNotice p body s).word x k = s.word x k) ∧ (queueNotice p body s).lastGranted = s.lastGranted
     ∧ (queueNotice p body s).writeBacks = s.writeBacks ∧ (queueNotice p body s).sessions = s.sessions
     ∧ (∀ x, (queueNotice p body s).session x = s.session x) ∧ (∀ x, (queueNotice p body s).handle x = s.handle x)
     ∧ (queueNotice p body s).groups = s.groups ∧ (∀ x, (queueNotice p body s).group x = s.group x)
     ∧ (queueNotice p body s).jobs = s.jobs ∧ (queueNotice p body s).relocations = s.relocations
     ∧ (queueNotice p body s).log = s.log ∧ (queueNotice p body s).nextSeq = s.nextSeq
     ∧ (queueNotice p body s).cursor = s.cursor ∧ (queueNotice p body s).timer = s.timer
     ∧ (queueNotice p body s).scrub = s.scrub ∧ (queueNotice p body s).settings = s.settings
     ∧ (queueNotice p body s).draws = s.draws ∧ (queueNotice p body s).pending = s.pending := by
  simp only [queueNotice]; split <;> simp

/-- A response changes its port alone. -/
@[simp] theorem respond_frame (p : PortId) (a : Answer) :
    (respond p a s).phase = s.phase ∧ (respond p a s).map = s.map ∧ (∀ x, (respond p a s).entry x = s.entry x)
     ∧ (respond p a s).waits = s.waits ∧ (respond p a s).frames = s.frames
     ∧ (∀ x, (respond p a s).frame x = s.frame x) ∧ (respond p a s).pool = s.pool ∧ (respond p a s).store = s.store
     ∧ (∀ x k, (respond p a s).word x k = s.word x k) ∧ (respond p a s).lastGranted = s.lastGranted
     ∧ (respond p a s).writeBacks = s.writeBacks ∧ (respond p a s).sessions = s.sessions
     ∧ (∀ x, (respond p a s).session x = s.session x) ∧ (∀ x, (respond p a s).handle x = s.handle x)
     ∧ (respond p a s).groups = s.groups ∧ (∀ x, (respond p a s).group x = s.group x)
     ∧ (respond p a s).jobs = s.jobs ∧ (respond p a s).relocations = s.relocations ∧ (respond p a s).log = s.log
     ∧ (respond p a s).nextSeq = s.nextSeq ∧ (respond p a s).cursor = s.cursor ∧ (respond p a s).timer = s.timer
     ∧ (respond p a s).scrub = s.scrub ∧ (respond p a s).settings = s.settings ∧ (respond p a s).draws = s.draws
     ∧ (respond p a s).pending = s.pending := by
  simp only [respond]; split <;> simp

/-- A change of stage changes its port alone. -/
@[simp] theorem setService_frame (p : PortId) (session : Option Slot) (stage : Stage) :
    (setService p session stage s).phase = s.phase ∧ (setService p session stage s).map = s.map
     ∧ (∀ x, (setService p session stage s).entry x = s.entry x) ∧ (setService p session stage s).waits = s.waits
     ∧ (setService p session stage s).frames = s.frames ∧ (∀ x, (setService p session stage s).frame x = s.frame x)
     ∧ (setService p session stage s).pool = s.pool ∧ (setService p session stage s).store = s.store
     ∧ (∀ x k, (setService p session stage s).word x k = s.word x k)
     ∧ (setService p session stage s).lastGranted = s.lastGranted
     ∧ (setService p session stage s).writeBacks = s.writeBacks
     ∧ (setService p session stage s).sessions = s.sessions
     ∧ (∀ x, (setService p session stage s).session x = s.session x)
     ∧ (∀ x, (setService p session stage s).handle x = s.handle x)
     ∧ (setService p session stage s).groups = s.groups ∧ (∀ x, (setService p session stage s).group x = s.group x)
     ∧ (setService p session stage s).jobs = s.jobs ∧ (setService p session stage s).relocations = s.relocations
     ∧ (setService p session stage s).log = s.log ∧ (setService p session stage s).nextSeq = s.nextSeq
     ∧ (setService p session stage s).cursor = s.cursor ∧ (setService p session stage s).timer = s.timer
     ∧ (setService p session stage s).scrub = s.scrub ∧ (setService p session stage s).settings = s.settings
     ∧ (setService p session stage s).draws = s.draws ∧ (setService p session stage s).pending = s.pending := by
  simp only [setService]; split <;> simp

/-- A discard changes its port alone. -/
@[simp] theorem discard_frame (p : PortId) (cause : DiscardCause) :
    (discard p cause s).phase = s.phase ∧ (discard p cause s).map = s.map
     ∧ (∀ x, (discard p cause s).entry x = s.entry x) ∧ (discard p cause s).waits = s.waits
     ∧ (discard p cause s).frames = s.frames ∧ (∀ x, (discard p cause s).frame x = s.frame x)
     ∧ (discard p cause s).pool = s.pool ∧ (discard p cause s).store = s.store
     ∧ (∀ x k, (discard p cause s).word x k = s.word x k) ∧ (discard p cause s).lastGranted = s.lastGranted
     ∧ (discard p cause s).writeBacks = s.writeBacks ∧ (discard p cause s).sessions = s.sessions
     ∧ (∀ x, (discard p cause s).session x = s.session x) ∧ (∀ x, (discard p cause s).handle x = s.handle x)
     ∧ (discard p cause s).groups = s.groups ∧ (∀ x, (discard p cause s).group x = s.group x)
     ∧ (discard p cause s).jobs = s.jobs ∧ (discard p cause s).relocations = s.relocations
     ∧ (discard p cause s).log = s.log ∧ (discard p cause s).nextSeq = s.nextSeq
     ∧ (discard p cause s).cursor = s.cursor ∧ (discard p cause s).timer = s.timer
     ∧ (discard p cause s).scrub = s.scrub ∧ (discard p cause s).settings = s.settings
     ∧ (discard p cause s).draws = s.draws ∧ (discard p cause s).pending = s.pending := by
  simp [discard]

/-- What every step of a fold keeps, the fold keeps. -/
theorem foldl_keeps {α β γ : Type} (get : α → γ) (f : α → β → α) (h : ∀ t b, get (f t b) = get t) (l : List β) (t : α) :
    get (l.foldl f t) = get t := by
  induction l generalizing t with
  | nil => rfl
  | cons b l ih => rw [List.foldl_cons, ih, h]

/-- The FAULT notices of a record change ports alone. -/
@[simp] theorem faultNotices_frame (seq : BitVec 16) (kind : FaultKind) :
    (faultNotices seq kind s).phase = s.phase ∧ (faultNotices seq kind s).map = s.map
     ∧ (∀ x, (faultNotices seq kind s).entry x = s.entry x) ∧ (faultNotices seq kind s).waits = s.waits
     ∧ (faultNotices seq kind s).frames = s.frames ∧ (∀ x, (faultNotices seq kind s).frame x = s.frame x)
     ∧ (faultNotices seq kind s).pool = s.pool ∧ (faultNotices seq kind s).store = s.store
     ∧ (∀ x k, (faultNotices seq kind s).word x k = s.word x k)
     ∧ (faultNotices seq kind s).lastGranted = s.lastGranted ∧ (faultNotices seq kind s).writeBacks = s.writeBacks
     ∧ (faultNotices seq kind s).sessions = s.sessions ∧ (∀ x, (faultNotices seq kind s).session x = s.session x)
     ∧ (∀ x, (faultNotices seq kind s).handle x = s.handle x) ∧ (faultNotices seq kind s).groups = s.groups
     ∧ (∀ x, (faultNotices seq kind s).group x = s.group x) ∧ (faultNotices seq kind s).jobs = s.jobs
     ∧ (faultNotices seq kind s).relocations = s.relocations ∧ (faultNotices seq kind s).log = s.log
     ∧ (faultNotices seq kind s).nextSeq = s.nextSeq ∧ (faultNotices seq kind s).cursor = s.cursor
     ∧ (faultNotices seq kind s).timer = s.timer ∧ (faultNotices seq kind s).scrub = s.scrub
     ∧ (faultNotices seq kind s).settings = s.settings ∧ (faultNotices seq kind s).draws = s.draws
     ∧ (faultNotices seq kind s).pending = s.pending :=
  ⟨foldl_keeps State.phase _ (fun t b => by split <;> simp) _ _,
   foldl_keeps State.map _ (fun t b => by split <;> simp) _ _,
   fun x => foldl_keeps (fun t : State => t.entry x) _ (fun t b => by split <;> simp) _ _,
   foldl_keeps State.waits _ (fun t b => by split <;> simp) _ _,
   foldl_keeps State.frames _ (fun t b => by split <;> simp) _ _,
   fun x => foldl_keeps (fun t : State => t.frame x) _ (fun t b => by split <;> simp) _ _,
   foldl_keeps State.pool _ (fun t b => by split <;> simp) _ _,
   foldl_keeps State.store _ (fun t b => by split <;> simp) _ _,
   fun x k => foldl_keeps (fun t : State => t.word x k) _ (fun t b => by split <;> simp) _ _,
   foldl_keeps State.lastGranted _ (fun t b => by split <;> simp) _ _,
   foldl_keeps State.writeBacks _ (fun t b => by split <;> simp) _ _,
   foldl_keeps State.sessions _ (fun t b => by split <;> simp) _ _,
   fun x => foldl_keeps (fun t : State => t.session x) _ (fun t b => by split <;> simp) _ _,
   fun x => foldl_keeps (fun t : State => t.handle x) _ (fun t b => by split <;> simp) _ _,
   foldl_keeps State.groups _ (fun t b => by split <;> simp) _ _,
   fun x => foldl_keeps (fun t : State => t.group x) _ (fun t b => by split <;> simp) _ _,
   foldl_keeps State.jobs _ (fun t b => by split <;> simp) _ _,
   foldl_keeps State.relocations _ (fun t b => by split <;> simp) _ _,
   foldl_keeps State.log _ (fun t b => by split <;> simp) _ _,
   foldl_keeps State.nextSeq _ (fun t b => by split <;> simp) _ _,
   foldl_keeps State.cursor _ (fun t b => by split <;> simp) _ _,
   foldl_keeps State.timer _ (fun t b => by split <;> simp) _ _,
   foldl_keeps State.scrub _ (fun t b => by split <;> simp) _ _,
   foldl_keeps State.settings _ (fun t b => by split <;> simp) _ _,
   foldl_keeps State.draws _ (fun t b => by split <;> simp) _ _,
   foldl_keeps State.pending _ (fun t b => by split <;> simp) _ _⟩

/-- A record changes the log and, by its notices, ports. -/
@[simp] theorem appendRecord_frame (kind : FaultKind) (pf : PF) (word : Option WordIx) (syn : Option Syndrome) (context : Option ReadContext)
    (page : Option LP) (handle : Option Handle) :
    (appendRecord kind pf word syn context page handle s).phase = s.phase
     ∧ (appendRecord kind pf word syn context page handle s).map = s.map
     ∧ (∀ x, (appendRecord kind pf word syn context page handle s).entry x = s.entry x)
     ∧ (appendRecord kind pf word syn context page handle s).waits = s.waits
     ∧ (appendRecord kind pf word syn context page handle s).frames = s.frames
     ∧ (∀ x, (appendRecord kind pf word syn context page handle s).frame x = s.frame x)
     ∧ (appendRecord kind pf word syn context page handle s).pool = s.pool
     ∧ (appendRecord kind pf word syn context page handle s).store = s.store
     ∧ (∀ x k, (appendRecord kind pf word syn context page handle s).word x k = s.word x k)
     ∧ (appendRecord kind pf word syn context page handle s).lastGranted = s.lastGranted
     ∧ (appendRecord kind pf word syn context page handle s).writeBacks = s.writeBacks
     ∧ (appendRecord kind pf word syn context page handle s).sessions = s.sessions
     ∧ (∀ x, (appendRecord kind pf word syn context page handle s).session x = s.session x)
     ∧ (∀ x, (appendRecord kind pf word syn context page handle s).handle x = s.handle x)
     ∧ (appendRecord kind pf word syn context page handle s).groups = s.groups
     ∧ (∀ x, (appendRecord kind pf word syn context page handle s).group x = s.group x)
     ∧ (appendRecord kind pf word syn context page handle s).jobs = s.jobs
     ∧ (appendRecord kind pf word syn context page handle s).relocations = s.relocations
     ∧ (appendRecord kind pf word syn context page handle s).cursor = s.cursor
     ∧ (appendRecord kind pf word syn context page handle s).timer = s.timer
     ∧ (appendRecord kind pf word syn context page handle s).scrub = s.scrub
     ∧ (appendRecord kind pf word syn context page handle s).settings = s.settings
     ∧ (appendRecord kind pf word syn context page handle s).draws = s.draws
     ∧ (appendRecord kind pf word syn context page handle s).pending = s.pending := by
  simp [appendRecord, State.entry, State.frame, State.session, State.group, State.word, State.handle]

/-- A retirement changes its frame, the log and, by its notices, ports. -/
@[simp] theorem retireFrame_frame (pf : PF) :
    (retireFrame pf s).phase = s.phase ∧ (retireFrame pf s).map = s.map
     ∧ (∀ x, (retireFrame pf s).entry x = s.entry x) ∧ (retireFrame pf s).waits = s.waits
     ∧ (retireFrame pf s).pool = s.pool ∧ (retireFrame pf s).store = s.store
     ∧ (∀ x k, (retireFrame pf s).word x k = s.word x k) ∧ (retireFrame pf s).lastGranted = s.lastGranted
     ∧ (retireFrame pf s).writeBacks = s.writeBacks ∧ (retireFrame pf s).sessions = s.sessions
     ∧ (∀ x, (retireFrame pf s).session x = s.session x) ∧ (∀ x, (retireFrame pf s).handle x = s.handle x)
     ∧ (retireFrame pf s).groups = s.groups ∧ (∀ x, (retireFrame pf s).group x = s.group x)
     ∧ (retireFrame pf s).jobs = s.jobs ∧ (retireFrame pf s).relocations = s.relocations
     ∧ (retireFrame pf s).cursor = s.cursor ∧ (retireFrame pf s).timer = s.timer
     ∧ (retireFrame pf s).scrub = s.scrub ∧ (retireFrame pf s).settings = s.settings
     ∧ (retireFrame pf s).draws = s.draws ∧ (retireFrame pf s).pending = s.pending := by
  simp [retireFrame]

/-- A frame entering FREE changes its record and the pool. -/
@[simp] theorem freeFrame_frame (pf : PF) :
    (freeFrame pf s).phase = s.phase ∧ (freeFrame pf s).map = s.map ∧ (∀ x, (freeFrame pf s).entry x = s.entry x)
     ∧ (freeFrame pf s).waits = s.waits ∧ (freeFrame pf s).store = s.store
     ∧ (∀ x k, (freeFrame pf s).word x k = s.word x k) ∧ (freeFrame pf s).lastGranted = s.lastGranted
     ∧ (freeFrame pf s).writeBacks = s.writeBacks ∧ (freeFrame pf s).sessions = s.sessions
     ∧ (∀ x, (freeFrame pf s).session x = s.session x) ∧ (∀ x, (freeFrame pf s).handle x = s.handle x)
     ∧ (freeFrame pf s).groups = s.groups ∧ (∀ x, (freeFrame pf s).group x = s.group x)
     ∧ (freeFrame pf s).jobs = s.jobs ∧ (freeFrame pf s).relocations = s.relocations ∧ (freeFrame pf s).log = s.log
     ∧ (freeFrame pf s).nextSeq = s.nextSeq ∧ (freeFrame pf s).cursor = s.cursor ∧ (freeFrame pf s).timer = s.timer
     ∧ (freeFrame pf s).scrub = s.scrub ∧ (freeFrame pf s).settings = s.settings ∧ (freeFrame pf s).ports = s.ports
     ∧ (∀ x, (freeFrame pf s).port x = s.port x) ∧ (freeFrame pf s).draws = s.draws
     ∧ (freeFrame pf s).pending = s.pending := by
  simp [freeFrame, State.entry, State.session, State.group, State.word, State.handle, State.port]

/-- A release changes frame records, the pool, the log and, by notices, ports. -/
@[simp] theorem releaseFrame_frame (pf : PF) :
    (releaseFrame pf s).phase = s.phase ∧ (releaseFrame pf s).map = s.map
     ∧ (∀ x, (releaseFrame pf s).entry x = s.entry x) ∧ (releaseFrame pf s).waits = s.waits
     ∧ (releaseFrame pf s).store = s.store ∧ (∀ x k, (releaseFrame pf s).word x k = s.word x k)
     ∧ (releaseFrame pf s).lastGranted = s.lastGranted ∧ (releaseFrame pf s).writeBacks = s.writeBacks
     ∧ (releaseFrame pf s).sessions = s.sessions ∧ (∀ x, (releaseFrame pf s).session x = s.session x)
     ∧ (∀ x, (releaseFrame pf s).handle x = s.handle x) ∧ (releaseFrame pf s).groups = s.groups
     ∧ (∀ x, (releaseFrame pf s).group x = s.group x) ∧ (releaseFrame pf s).jobs = s.jobs
     ∧ (releaseFrame pf s).relocations = s.relocations ∧ (releaseFrame pf s).cursor = s.cursor
     ∧ (releaseFrame pf s).timer = s.timer ∧ (releaseFrame pf s).scrub = s.scrub
     ∧ (releaseFrame pf s).settings = s.settings ∧ (releaseFrame pf s).draws = s.draws
     ∧ (releaseFrame pf s).pending = s.pending := by
  simp only [releaseFrame]; split <;> [split <;> [skip; split]; skip] <;> simp

/-- A frame becoming MAPPED changes its record alone. -/
@[simp] theorem mapFrame_frame (pf : PF) (page : LP) :
    (mapFrame pf page s).phase = s.phase ∧ (mapFrame pf page s).map = s.map
     ∧ (∀ x, (mapFrame pf page s).entry x = s.entry x) ∧ (mapFrame pf page s).waits = s.waits
     ∧ (mapFrame pf page s).pool = s.pool ∧ (mapFrame pf page s).store = s.store
     ∧ (∀ x k, (mapFrame pf page s).word x k = s.word x k) ∧ (mapFrame pf page s).lastGranted = s.lastGranted
     ∧ (mapFrame pf page s).writeBacks = s.writeBacks ∧ (mapFrame pf page s).sessions = s.sessions
     ∧ (∀ x, (mapFrame pf page s).session x = s.session x) ∧ (∀ x, (mapFrame pf page s).handle x = s.handle x)
     ∧ (mapFrame pf page s).groups = s.groups ∧ (∀ x, (mapFrame pf page s).group x = s.group x)
     ∧ (mapFrame pf page s).jobs = s.jobs ∧ (mapFrame pf page s).relocations = s.relocations
     ∧ (mapFrame pf page s).log = s.log ∧ (mapFrame pf page s).nextSeq = s.nextSeq
     ∧ (mapFrame pf page s).cursor = s.cursor ∧ (mapFrame pf page s).timer = s.timer
     ∧ (mapFrame pf page s).scrub = s.scrub ∧ (mapFrame pf page s).settings = s.settings
     ∧ (mapFrame pf page s).ports = s.ports ∧ (∀ x, (mapFrame pf page s).port x = s.port x)
     ∧ (mapFrame pf page s).draws = s.draws ∧ (mapFrame pf page s).pending = s.pending := by
  simp only [mapFrame]; split <;> simp

/-- A pin changes its frame's record alone. -/
@[simp] theorem pinFrame_frame (pf : PF) :
    (pinFrame pf s).phase = s.phase ∧ (pinFrame pf s).map = s.map ∧ (∀ x, (pinFrame pf s).entry x = s.entry x)
     ∧ (pinFrame pf s).waits = s.waits ∧ (pinFrame pf s).pool = s.pool ∧ (pinFrame pf s).store = s.store
     ∧ (∀ x k, (pinFrame pf s).word x k = s.word x k) ∧ (pinFrame pf s).lastGranted = s.lastGranted
     ∧ (pinFrame pf s).writeBacks = s.writeBacks ∧ (pinFrame pf s).sessions = s.sessions
     ∧ (∀ x, (pinFrame pf s).session x = s.session x) ∧ (∀ x, (pinFrame pf s).handle x = s.handle x)
     ∧ (pinFrame pf s).groups = s.groups ∧ (∀ x, (pinFrame pf s).group x = s.group x)
     ∧ (pinFrame pf s).jobs = s.jobs ∧ (pinFrame pf s).relocations = s.relocations ∧ (pinFrame pf s).log = s.log
     ∧ (pinFrame pf s).nextSeq = s.nextSeq ∧ (pinFrame pf s).cursor = s.cursor ∧ (pinFrame pf s).timer = s.timer
     ∧ (pinFrame pf s).scrub = s.scrub ∧ (pinFrame pf s).settings = s.settings ∧ (pinFrame pf s).ports = s.ports
     ∧ (∀ x, (pinFrame pf s).port x = s.port x) ∧ (pinFrame pf s).draws = s.draws
     ∧ (pinFrame pf s).pending = s.pending := by
  simp [pinFrame]

/-- A flag changes its frame's record alone. -/
@[simp] theorem flagFrame_frame (pf : PF) :
    (flagFrame pf s).phase = s.phase ∧ (flagFrame pf s).map = s.map ∧ (∀ x, (flagFrame pf s).entry x = s.entry x)
     ∧ (flagFrame pf s).waits = s.waits ∧ (flagFrame pf s).pool = s.pool ∧ (flagFrame pf s).store = s.store
     ∧ (∀ x k, (flagFrame pf s).word x k = s.word x k) ∧ (flagFrame pf s).lastGranted = s.lastGranted
     ∧ (flagFrame pf s).writeBacks = s.writeBacks ∧ (flagFrame pf s).sessions = s.sessions
     ∧ (∀ x, (flagFrame pf s).session x = s.session x) ∧ (∀ x, (flagFrame pf s).handle x = s.handle x)
     ∧ (flagFrame pf s).groups = s.groups ∧ (∀ x, (flagFrame pf s).group x = s.group x)
     ∧ (flagFrame pf s).jobs = s.jobs ∧ (flagFrame pf s).relocations = s.relocations ∧ (flagFrame pf s).log = s.log
     ∧ (flagFrame pf s).nextSeq = s.nextSeq ∧ (flagFrame pf s).cursor = s.cursor ∧ (flagFrame pf s).timer = s.timer
     ∧ (flagFrame pf s).scrub = s.scrub ∧ (flagFrame pf s).settings = s.settings ∧ (flagFrame pf s).ports = s.ports
     ∧ (∀ x, (flagFrame pf s).port x = s.port x) ∧ (flagFrame pf s).draws = s.draws
     ∧ (flagFrame pf s).pending = s.pending := by
  simp [flagFrame]

/-- An unpin changes frame records, the pool, the log and, by notices, ports. -/
@[simp] theorem unpinFrame_frame (pf : PF) :
    (unpinFrame pf s).phase = s.phase ∧ (unpinFrame pf s).map = s.map
     ∧ (∀ x, (unpinFrame pf s).entry x = s.entry x) ∧ (unpinFrame pf s).waits = s.waits
     ∧ (unpinFrame pf s).store = s.store ∧ (∀ x k, (unpinFrame pf s).word x k = s.word x k)
     ∧ (unpinFrame pf s).lastGranted = s.lastGranted ∧ (unpinFrame pf s).writeBacks = s.writeBacks
     ∧ (unpinFrame pf s).sessions = s.sessions ∧ (∀ x, (unpinFrame pf s).session x = s.session x)
     ∧ (∀ x, (unpinFrame pf s).handle x = s.handle x) ∧ (unpinFrame pf s).groups = s.groups
     ∧ (∀ x, (unpinFrame pf s).group x = s.group x) ∧ (unpinFrame pf s).jobs = s.jobs
     ∧ (unpinFrame pf s).relocations = s.relocations ∧ (unpinFrame pf s).cursor = s.cursor
     ∧ (unpinFrame pf s).timer = s.timer ∧ (unpinFrame pf s).scrub = s.scrub
     ∧ (unpinFrame pf s).settings = s.settings ∧ (unpinFrame pf s).draws = s.draws
     ∧ (unpinFrame pf s).pending = s.pending := by
  simp only [unpinFrame]; split <;> [split; skip] <;> simp

/-- A run of unpins changes frame records, the pool, the log and, by notices, ports. -/
@[simp] theorem unpinAll_frame (pfs : List PF) :
    (unpinAll pfs s).phase = s.phase ∧ (unpinAll pfs s).map = s.map ∧ (∀ x, (unpinAll pfs s).entry x = s.entry x)
     ∧ (unpinAll pfs s).waits = s.waits ∧ (unpinAll pfs s).store = s.store
     ∧ (∀ x k, (unpinAll pfs s).word x k = s.word x k) ∧ (unpinAll pfs s).lastGranted = s.lastGranted
     ∧ (unpinAll pfs s).writeBacks = s.writeBacks ∧ (unpinAll pfs s).sessions = s.sessions
     ∧ (∀ x, (unpinAll pfs s).session x = s.session x) ∧ (∀ x, (unpinAll pfs s).handle x = s.handle x)
     ∧ (unpinAll pfs s).groups = s.groups ∧ (∀ x, (unpinAll pfs s).group x = s.group x)
     ∧ (unpinAll pfs s).jobs = s.jobs ∧ (unpinAll pfs s).relocations = s.relocations
     ∧ (unpinAll pfs s).cursor = s.cursor ∧ (unpinAll pfs s).timer = s.timer ∧ (unpinAll pfs s).scrub = s.scrub
     ∧ (unpinAll pfs s).settings = s.settings ∧ (unpinAll pfs s).draws = s.draws
     ∧ (unpinAll pfs s).pending = s.pending :=
  ⟨foldl_keeps State.phase _ (fun t b => by simp) _ _,
   foldl_keeps State.map _ (fun t b => by simp) _ _,
   fun x => foldl_keeps (fun t : State => t.entry x) _ (fun t b => by simp) _ _,
   foldl_keeps State.waits _ (fun t b => by simp) _ _,
   foldl_keeps State.store _ (fun t b => by simp) _ _,
   fun x k => foldl_keeps (fun t : State => t.word x k) _ (fun t b => by simp) _ _,
   foldl_keeps State.lastGranted _ (fun t b => by simp) _ _,
   foldl_keeps State.writeBacks _ (fun t b => by simp) _ _,
   foldl_keeps State.sessions _ (fun t b => by simp) _ _,
   fun x => foldl_keeps (fun t : State => t.session x) _ (fun t b => by simp) _ _,
   fun x => foldl_keeps (fun t : State => t.handle x) _ (fun t b => by simp) _ _,
   foldl_keeps State.groups _ (fun t b => by simp) _ _,
   fun x => foldl_keeps (fun t : State => t.group x) _ (fun t b => by simp) _ _,
   foldl_keeps State.jobs _ (fun t b => by simp) _ _,
   foldl_keeps State.relocations _ (fun t b => by simp) _ _,
   foldl_keeps State.cursor _ (fun t b => by simp) _ _,
   foldl_keeps State.timer _ (fun t b => by simp) _ _,
   foldl_keeps State.scrub _ (fun t b => by simp) _ _,
   foldl_keeps State.settings _ (fun t b => by simp) _ _,
   foldl_keeps State.draws _ (fun t b => by simp) _ _,
   foldl_keeps State.pending _ (fun t b => by simp) _ _⟩

/-- A change of a session record changes nothing else. -/
@[simp] theorem modifySession_frame (slot : Slot) (f : SessionRec → SessionRec) :
    (modifySession slot f s).phase = s.phase ∧ (modifySession slot f s).map = s.map
     ∧ (∀ x, (modifySession slot f s).entry x = s.entry x) ∧ (modifySession slot f s).waits = s.waits
     ∧ (modifySession slot f s).frames = s.frames ∧ (∀ x, (modifySession slot f s).frame x = s.frame x)
     ∧ (modifySession slot f s).pool = s.pool ∧ (modifySession slot f s).store = s.store
     ∧ (∀ x k, (modifySession slot f s).word x k = s.word x k)
     ∧ (modifySession slot f s).lastGranted = s.lastGranted ∧ (modifySession slot f s).writeBacks = s.writeBacks
     ∧ (modifySession slot f s).groups = s.groups ∧ (∀ x, (modifySession slot f s).group x = s.group x)
     ∧ (modifySession slot f s).jobs = s.jobs ∧ (modifySession slot f s).relocations = s.relocations
     ∧ (modifySession slot f s).log = s.log ∧ (modifySession slot f s).nextSeq = s.nextSeq
     ∧ (modifySession slot f s).cursor = s.cursor ∧ (modifySession slot f s).timer = s.timer
     ∧ (modifySession slot f s).scrub = s.scrub ∧ (modifySession slot f s).settings = s.settings
     ∧ (modifySession slot f s).ports = s.ports ∧ (∀ x, (modifySession slot f s).port x = s.port x)
     ∧ (modifySession slot f s).draws = s.draws ∧ (modifySession slot f s).pending = s.pending := by
  simp [modifySession]

/-- A session becoming FREE changes its record alone. -/
@[simp] theorem freeSession_frame (slot : Slot) :
    (freeSession slot s).phase = s.phase ∧ (freeSession slot s).map = s.map
     ∧ (∀ x, (freeSession slot s).entry x = s.entry x) ∧ (freeSession slot s).waits = s.waits
     ∧ (freeSession slot s).frames = s.frames ∧ (∀ x, (freeSession slot s).frame x = s.frame x)
     ∧ (freeSession slot s).pool = s.pool ∧ (freeSession slot s).store = s.store
     ∧ (∀ x k, (freeSession slot s).word x k = s.word x k) ∧ (freeSession slot s).lastGranted = s.lastGranted
     ∧ (freeSession slot s).writeBacks = s.writeBacks ∧ (freeSession slot s).groups = s.groups
     ∧ (∀ x, (freeSession slot s).group x = s.group x) ∧ (freeSession slot s).jobs = s.jobs
     ∧ (freeSession slot s).relocations = s.relocations ∧ (freeSession slot s).log = s.log
     ∧ (freeSession slot s).nextSeq = s.nextSeq ∧ (freeSession slot s).cursor = s.cursor
     ∧ (freeSession slot s).timer = s.timer ∧ (freeSession slot s).scrub = s.scrub
     ∧ (freeSession slot s).settings = s.settings ∧ (freeSession slot s).ports = s.ports
     ∧ (∀ x, (freeSession slot s).port x = s.port x) ∧ (freeSession slot s).draws = s.draws
     ∧ (freeSession slot s).pending = s.pending := by
  simp [freeSession]

/-- A job joining the copy queue changes the queue alone. -/
@[simp] theorem queueJob_frame (kind : JobKind) (page : LP) (target : PF) :
    (queueJob kind page target s).phase = s.phase ∧ (queueJob kind page target s).map = s.map
     ∧ (∀ x, (queueJob kind page target s).entry x = s.entry x) ∧ (queueJob kind page target s).waits = s.waits
     ∧ (queueJob kind page target s).frames = s.frames ∧ (∀ x, (queueJob kind page target s).frame x = s.frame x)
     ∧ (queueJob kind page target s).pool = s.pool ∧ (queueJob kind page target s).store = s.store
     ∧ (∀ x k, (queueJob kind page target s).word x k = s.word x k)
     ∧ (queueJob kind page target s).lastGranted = s.lastGranted
     ∧ (queueJob kind page target s).writeBacks = s.writeBacks
     ∧ (queueJob kind page target s).sessions = s.sessions
     ∧ (∀ x, (queueJob kind page target s).session x = s.session x)
     ∧ (∀ x, (queueJob kind page target s).handle x = s.handle x) ∧ (queueJob kind page target s).groups = s.groups
     ∧ (∀ x, (queueJob kind page target s).group x = s.group x)
     ∧ (queueJob kind page target s).relocations = s.relocations ∧ (queueJob kind page target s).log = s.log
     ∧ (queueJob kind page target s).nextSeq = s.nextSeq ∧ (queueJob kind page target s).cursor = s.cursor
     ∧ (queueJob kind page target s).timer = s.timer ∧ (queueJob kind page target s).scrub = s.scrub
     ∧ (queueJob kind page target s).settings = s.settings ∧ (queueJob kind page target s).ports = s.ports
     ∧ (∀ x, (queueJob kind page target s).port x = s.port x) ∧ (queueJob kind page target s).draws = s.draws
     ∧ (queueJob kind page target s).pending = s.pending := by
  exact ⟨rfl, rfl, fun _ => rfl, rfl, rfl, fun _ => rfl, rfl, rfl, fun _ _ => rfl, rfl, rfl, rfl, fun _ => rfl, fun _ => rfl, rfl,
    fun _ => rfl, rfl, rfl, rfl, rfl, rfl, rfl, rfl, rfl, fun _ => rfl, rfl, rfl⟩

/-- A job's cancellation changes the copy queue and, by its source's unpin, frames, the pool, the log and ports. -/
@[simp] theorem cancelSessionJob_frame (slot : Slot) :
    (cancelSessionJob slot s).phase = s.phase ∧ (cancelSessionJob slot s).map = s.map
     ∧ (∀ x, (cancelSessionJob slot s).entry x = s.entry x) ∧ (cancelSessionJob slot s).waits = s.waits
     ∧ (cancelSessionJob slot s).store = s.store ∧ (∀ x k, (cancelSessionJob slot s).word x k = s.word x k)
     ∧ (cancelSessionJob slot s).lastGranted = s.lastGranted ∧ (cancelSessionJob slot s).writeBacks = s.writeBacks
     ∧ (cancelSessionJob slot s).sessions = s.sessions ∧ (∀ x, (cancelSessionJob slot s).session x = s.session x)
     ∧ (∀ x, (cancelSessionJob slot s).handle x = s.handle x) ∧ (cancelSessionJob slot s).groups = s.groups
     ∧ (∀ x, (cancelSessionJob slot s).group x = s.group x) ∧ (cancelSessionJob slot s).relocations = s.relocations
     ∧ (cancelSessionJob slot s).cursor = s.cursor ∧ (cancelSessionJob slot s).timer = s.timer
     ∧ (cancelSessionJob slot s).scrub = s.scrub ∧ (cancelSessionJob slot s).settings = s.settings
     ∧ (cancelSessionJob slot s).draws = s.draws ∧ (cancelSessionJob slot s).pending = s.pending := by
  simp only [cancelSessionJob]
  split
  · simp
  · split <;> simp [State.entry, State.session, State.group, State.word, State.handle]

end Sys2Proof.Machine
end

