-- ==== Sys2Proof/Laws/Edits.lean ====
section
/-! SUPPORT. What one step can do to the state, said once: every command but a device reset and the two ends of the
initialization sweep changes the state by a run of small edits, each with the condition under which the device makes it. An
invariant that every edit keeps is kept by every step. -/

namespace Sys2Proof.Machine

/-- One small edit of the state, with the condition under which an event makes it. -/
inductive Edit : State → State → Prop
  | notice (s : State) (p : PortId) (body : NoticeBody) : Edit s (queueNotice p body s)
  | respond (s : State) (p : PortId) (a : Answer) : Edit s (respond p a s)
  | service (s : State) (p : PortId) (session : Option Slot) (stage : Stage) : Edit s (setService p session stage s)
  | discard (s : State) (p : PortId) (cause : DiscardCause) : Edit s (discard p cause s)
  | take (s : State) (p : PortId) (r : Request) (rest : List Request) (hq : (s.port p).requests = r :: rest)
      (hn : (s.port p).inService = none) :
      Edit s (s.setPort p { s.port p with requests := rest, inService := some ⟨r, none, .atOnce⟩ })
  | accept (s : State) (p : PortId) (r : Request) (hc : (s.port p).credits ≠ 0) :
      Edit s (s.setPort p
        { s.port p with credits := (s.port p).credits - 1, requests := (s.port p).requests ++ [r] })
  | fetch (s : State) (p : PortId) : Edit s (completeFetch p s)
  | note (s : State) (p : PortId) : Edit s (completeNote p s)
  | pstat (s : State) (p : PortId) : Edit s (completePstat p s)
  | wire (s : State) (p : PortId) (w : WireFrame) (out : List Byte) :
      Edit s (s.setPort p { s.port p with wire := w, sdo := out })
  | watch (s : State) (p : PortId) (page : LP) (hw : page ∉ (s.port p).watches)
      (hl : (s.port p).watches.length < Config.watchCapacity) :
      Edit s (setWatches p ((s.port p).watches ++ [page]) s)
  | unwatch (s : State) (p : PortId) (page : LP) : Edit s (setWatches p ((s.port p).watches.erase page) s)
  | clear (s : State) (p : PortId) : Edit s (clearPort p s)
  | configure (s : State) (record : ConfigRecord) (timer : Option Nat) (hr : configInRange record = true)
      (hf : ∀ slot, (s.session slot).state = .free) :
      Edit s (evalAllAttn { s with settings := configSettings record, timer := timer })
  | record (s : State) (r : FaultRecord) (hr : r.seq = s.nextSeq) :
      Edit s { s with
        log := (if s.log.length < Config.logCapacity then s.log
          else s.log.drop (s.log.length + 1 - Config.logCapacity)) ++ [r]
        nextSeq := s.nextSeq + 1 }
  | hold (s : State) (pf : PF) (hr : (s.frame pf).state.releasable = true) (hp : 0 < (s.frame pf).pins) :
      Edit s (s.setFrame pf { s.frame pf with state := .held, owner := none })
  | retire (s : State) (pf : PF) (hr : (s.frame pf).state.releasable = true ∨ (s.frame pf).state = .held)
      (hp : (s.frame pf).pins = 0) (hf : (s.frame pf).retireOnRelease = true) :
      Edit s (s.setFrame pf { s.frame pf with state := .retired, owner := none })
  | free (s : State) (pf : PF) (hr : (s.frame pf).state.releasable = true ∨ (s.frame pf).state = .held)
      (hp : (s.frame pf).pins = 0) (hf : (s.frame pf).retireOnRelease = false) : Edit s (freeFrame pf s)
  | map (s : State) (pf : PF) (page : LP) (hm : (s.frame pf).state = .shadow ∨ (s.frame pf).state = .moving) :
      Edit s (s.setFrame pf { s.frame pf with state := .mapped, owner := some (.page page) })
  | pin (s : State) (pf : PF) : Edit s (pinFrame pf s)
  | unpin (s : State) (pf : PF) : Edit s (s.setFrame pf { s.frame pf with pins := (s.frame pf).pins - 1 })
  | allocate (s t : State) (state : FrameState) (owner : Owner) (pf : PF)
      (hs : state = .shadow ∨ state = .moving) (ha : allocate state owner s = some (pf, t)) : Edit s t
  | flag (s : State) (pf : PF) : Edit s (flagFrame pf s)
  | count (s : State) (pf : PF) : Edit s (countCorrected pf s)
  | claim (s : State) (page : LP) (c : Option Slot) : Edit s (s.setEntry page { s.entry page with claim := c })
  | poison (s : State) (page : LP) : Edit s (s.setEntry page { s.entry page with condition := .poisoned })
  | relocating (s : State) (page : LP) (b : Bool) : Edit s (s.setEntry page { s.entry page with relocating := b })
  | switch (s : State) (page : LP) (pf : PF) :
      Edit s (s.setEntry page
        { frame := pf, version := nextVersion (s.entry page).version, condition := .normal, claim := none,
          relocating := false })
  | move (s : State) (page : LP) (pf : PF) :
      Edit s (s.setEntry page { s.entry page with frame := pf, relocating := false })
  | opened (s : State) (slot : Slot) (p : PortId) (g : Option GroupIx) (budget : Nat)
      (hf : (s.session slot).state = .free) (hq : s.heldBy p < s.settings.quotas[p]) :
      Edit s (s.setSession slot
        { SessionRec.reset with
          generation := (s.session slot).generation + 1, port := some p, state := .opened, group := g,
          budget := budget })
  | session (s : State) (slot : Slot) (r : SessionRec) (hs : r.state = .free ↔ (s.session slot).state = .free)
      (hp : r.port = (s.session slot).port) (hg : r.group = (s.session slot).group)
      (hn : r.generation = (s.session slot).generation) : Edit s (s.setSession slot r)
  | freed (s : State) (slot : Slot) : Edit s (freeSession slot s)
  | tick (s : State) : Edit s (lowerBudgets s)
  | join (s : State) (g : GroupIx) (slot : Slot) : Edit s (joinGroup g slot s)
  | close (s : State) (g : GroupIx) (p : PortId) (hg : (s.group g).state = .gathering) :
      Edit s (s.setGroup g { s.group g with state := .closing, closer := some p })
  | disband (s : State) (g : GroupIx) : Edit s (s.setGroup g GroupRec.reset)
  | book (s : State) (waits : List WaitEntry) (jobs : List Job) (lastGranted : Nat) (cursor : PF) (timer : Option Nat)
      (scrub : Option ScrubRead) (draws : Nat) :
      Edit s { s with
        waits := waits, jobs := jobs, lastGranted := lastGranted, cursor := cursor, timer := timer, scrub := scrub,
        draws := draws }
  | unlist (s : State) (l : List LP) (hl : l.Sublist s.relocations) : Edit s { s with relocations := l }
  | list (s : State) (page : LP) (hp : page ∉ s.relocations)
      (hl : s.relocations.length < Config.relocationCapacity) :
      Edit s { s with relocations := s.relocations ++ [page] }
  | dropWriteBacks (s : State) (l : List WriteBack) (hl : l.Sublist s.writeBacks) : Edit s { s with writeBacks := l }
  | queueWriteBack (s : State) (b : WriteBack) (hl : s.writeBacks.length < Config.writeBackCapacity) :
      Edit s { s with writeBacks := s.writeBacks ++ [b] }
  | write (s : State) (pf : PF) (k : WordIx) (data : Word) : Edit s (s.writeWord pf k data)
  | disturb (s : State) (pf : PF) (k : WordIx) (flips : BitVec 39) : Edit s (s.disturbWord pf k flips)

/-- A run of edits. -/
abbrev Edits : State → State → Prop := Relation.ReflTransGen Edit

/-- What every edit keeps, a run of edits keeps. -/
theorem Edits.keeps {Inv : State → Prop} (hI : ∀ s t, Edit s t → Inv s → Inv t) {s t : State} (h : Edits s t) (hs : Inv s) :
    Inv t := by
  induction h with
  | refl => exact hs
  | tail _ he ih => exact hI _ _ he ih

theorem Edit.run {s t : State} (h : Edit s t) : Edits s t := .single h

/-- A fold of runs is a run. -/
theorem Edits.foldl {β : Type} (f : State → β → State) (h : ∀ t b, Edits t (f t b)) (l : List β) (t : State) :
    Edits t (l.foldl f t) := by
  induction l generalizing t with
  | nil => exact .refl
  | cons b l ih => exact (h t b).trans (ih _)

variable (s : State)

/-! ### Ports and the fault log -/

theorem faultNotices_edits (seq : BitVec 16) (kind : FaultKind) : Edits s (faultNotices seq kind s) := by
  refine Edits.foldl _ (fun t p => ?_) _ _
  split
  · exact (Edit.notice t p _).run
  · exact .refl

theorem appendRecord_edits (kind : FaultKind) (pf : PF) (word : Option WordIx) (syn : Option Syndrome)
    (context : Option ReadContext) (page : Option LP) (handle : Option Handle) :
    Edits s (appendRecord kind pf word syn context page handle s) :=
  .head (Edit.record s _ rfl) (faultNotices_edits _ _ _)

theorem noticeToOwner_edits (slot : Slot) (body : NoticeBody) : Edits s (noticeToOwner slot body s) := by
  simp only [noticeToOwner]
  split
  · exact .refl
  · exact (Edit.notice _ _ _).run

/-! ### Frames -/

theorem retireFrame_edits (pf : PF) (hr : (s.frame pf).state.releasable = true ∨ (s.frame pf).state = .held)
    (hp : (s.frame pf).pins = 0) (hf : (s.frame pf).retireOnRelease = true) : Edits s (retireFrame pf s) :=
  .head (Edit.retire s pf hr hp hf) (appendRecord_edits ..)

theorem releaseFrame_edits (pf : PF) : Edits s (releaseFrame pf s) := by
  simp only [releaseFrame]
  split
  · next hr =>
    split
    · next hp => exact (Edit.hold s pf hr hp).run
    · next hp =>
      split
      · next hf => exact retireFrame_edits s pf (.inl hr) (Nat.eq_zero_of_not_pos hp) hf
      · next hf => exact (Edit.free s pf (.inl hr) (Nat.eq_zero_of_not_pos hp) (Bool.eq_false_iff.mpr hf)).run
  · exact .refl

theorem mapFrame_edits (pf : PF) (page : LP) : Edits s (mapFrame pf page s) := by
  simp only [mapFrame]
  split
  · next h => exact (Edit.map s pf page h).run
  · exact .refl

theorem unpinFrame_edits (pf : PF) : Edits s (unpinFrame pf s) := by
  refine .head (Edit.unpin s pf) ?_
  simp only [unpinFrame]
  split
  · next h =>
    split
    · next hf => exact retireFrame_edits _ pf (.inr h.1) h.2 hf
    · next hf => exact (Edit.free _ pf (.inr h.1) h.2 (Bool.eq_false_iff.mpr hf)).run
  · exact .refl

theorem unpinAll_edits (pfs : List PF) : Edits s (unpinAll pfs s) :=
  Edits.foldl _ (fun t pf => unpinFrame_edits t pf) _ _

theorem pinAll_edits (pfs : List PF) : Edits s (pfs.foldl (fun t pf => pinFrame pf t) s) :=
  Edits.foldl _ (fun t pf => (Edit.pin t pf).run) _ _

/-! ### Bookkeeping -/

theorem jobs_edits (jobs : List Job) : Edits s { s with jobs := jobs } :=
  (Edit.book s s.waits jobs s.lastGranted s.cursor s.timer s.scrub s.draws).run

theorem waits_edits (waits : List WaitEntry) : Edits s { s with waits := waits } :=
  (Edit.book s waits s.jobs s.lastGranted s.cursor s.timer s.scrub s.draws).run

theorem scrub_edits (scrub : Option ScrubRead) : Edits s { s with scrub := scrub } :=
  (Edit.book s s.waits s.jobs s.lastGranted s.cursor s.timer scrub s.draws).run

theorem timer_edits (timer : Option Nat) : Edits s { s with timer := timer } :=
  (Edit.book s s.waits s.jobs s.lastGranted s.cursor timer s.scrub s.draws).run

theorem lastGranted_edits (n : Nat) : Edits s { s with lastGranted := n } :=
  (Edit.book s s.waits s.jobs n s.cursor s.timer s.scrub s.draws).run

theorem draws_edits (n : Nat) : Edits s { s with draws := n } :=
  (Edit.book s s.waits s.jobs s.lastGranted s.cursor s.timer s.scrub n).run

theorem queueJob_edits (kind : JobKind) (page : LP) (target : PF) : Edits s (queueJob kind page target s) :=
  jobs_edits s _

/-- A change of a session's record that leaves its state FREE or not FREE as it was, its port, its group and its generation. -/
theorem modifySession_edits (slot : Slot) (f : SessionRec → SessionRec)
    (hs : (f (s.session slot)).state = .free ↔ (s.session slot).state = .free)
    (hp : (f (s.session slot)).port = (s.session slot).port) (hg : (f (s.session slot)).group = (s.session slot).group)
    (hn : (f (s.session slot)).generation = (s.session slot).generation) : Edits s (modifySession slot f s) :=
  (Edit.session s slot _ hs hp hg hn).run

/-! ### Jobs and relocations -/

theorem cancelSessionJob_edits (slot : Slot) : Edits s (cancelSessionJob slot s) := by
  simp only [cancelSessionJob]
  split
  · exact .refl
  · split
    · exact jobs_edits s _
    · exact (jobs_edits s _).trans (unpinFrame_edits _ _)

theorem abandonRelocation_edits (page : LP) : Edits s (abandonRelocation page s) := by
  simp only [abandonRelocation]
  refine .trans ?_ (Edit.relocating _ page false).run
  split
  · exact .refl
  · refine .trans ?_ (releaseFrame_edits _ _)
    split
    · exact jobs_edits s _
    · exact (jobs_edits s _).trans (unpinFrame_edits _ _)

theorem unlistRelocation_edits (page : LP) : Edits s (unlistRelocation page s) :=
  (Edit.unlist s _ (List.filter_sublist ..)).run

theorem startRelocation_edits : Edits s (startRelocation s) := by
  simp only [startRelocation]
  split
  · exact .refl
  · next page _ =>
    split
    · exact .refl
    next target t ha =>
      refine .trans (.single (Edit.allocate s t .moving _ target (.inr rfl) ha)) ?_
      refine .trans (.single (Edit.unlist t _ (List.tail_sublist _))) ?_
      refine .trans (.single (Edit.relocating _ page true)) ?_
      exact (queueJob_edits _ _ _ _).trans (Edit.pin _ _).run

/-! ### Claims and waits -/

theorem takeClaim_edits {t : State} (slot : Slot) (page : LP) (write : PendingWrite) (origin : Origin)
    (h : takeClaim slot page write origin s = some t) : Edits s t := by
  simp only [takeClaim] at h
  split at h
  · cases h
  · next pf u ha =>
    have hclaim := (Edit.allocate s u .shadow _ pf (.inl rfl) ha).run.trans (Edit.claim u page (some slot)).run
    have hsession := hclaim.trans (modifySession_edits _ slot
      (fun r => { r with
        shadows := r.shadows ++ [⟨page, pf, decide ((s.entry page).condition = .poisoned)⟩], activity := .copying })
      Iff.rfl rfl rfl rfl)
    split at h
    · cases h; exact hsession.trans (queueJob_edits _ _ _ _)
    · cases h; exact hsession.trans ((queueJob_edits _ _ _ _).trans (Edit.pin _ _).run)

theorem endWait_edits (slot : Slot) : Edits s (endWait slot s) :=
  (waits_edits s _).trans (modifySession_edits _ _ _ Iff.rfl rfl rfl rfl)

theorem offerDown_edits (page : LP) (n : Nat) : Edits s (offerDown page n s) := by
  induction n generalizing s with
  | zero => exact .refl
  | succ n ih =>
    rw [offerDown]
    split
    · exact .refl
    · split
      · next h => exact (endWait_edits s _).trans (takeClaim_edits _ _ _ _ _ h)
      · exact (endWait_edits s _).trans ((noticeToOwner_edits _ _ _).trans (ih _))

theorem offerClaim_edits (page : LP) : Edits s (offerClaim page s) := offerDown_edits s page _

/-! ### Aborts -/

theorem stopService_edits (p : PortId) (r : InService) : Edits s (stopService p r s) := by
  simp only [stopService]
  split
  · exact .refl
  · exact .head (Edit.service s p r.session .atOnce) (unpinAll_edits _ _)
  · exact (Edit.service s p r.session .atOnce).run
  · exact (Edit.service s p r.session .atOnce).run

theorem abortService_edits (slot : Slot) : Edits s (abortService slot s) := by
  simp only [abortService]
  split
  · exact .refl
  · split
    · exact .refl
    · exact stopService_edits s _ _

theorem abortWait_edits (slot : Slot) : Edits s (abortWait slot s) := by
  simp only [abortWait]
  split
  · exact endWait_edits s slot
  · exact .refl

theorem dropShadow_edits (e : ShadowEntry) : Edits s (dropShadow e s) :=
  .head (Edit.claim s e.page none) (releaseFrame_edits _ _)

theorem abortReport_edits (slot : Slot) (reason : AbortReason) : Edits s (abortReport slot reason s) := by
  simp only [abortReport]
  split
  · exact .refl
  · split
    · exact .refl
    · exact (Edit.respond s _ _).run
    · split
      · exact (Edit.respond s _ _).run
      · exact (Edit.notice s _ _).run

theorem abortHold_edits (slot : Slot) (reason : AbortReason) : Edits s (abortHold slot reason s) := by
  simp only [abortHold]
  refine .trans ?_ (abortReport_edits _ _ _)
  refine .trans ?_ (modifySession_edits _ _ _ Iff.rfl rfl rfl rfl)
  refine .trans ?_ (Edits.foldl (fun t (e : ShadowEntry) => offerClaim e.page t) (fun t e => offerClaim_edits t e.page) _ _)
  refine .trans ?_ (Edits.foldl _ (fun t e => dropShadow_edits t e) _ _)
  exact (abortService_edits s slot).trans ((cancelSessionJob_edits _ slot).trans (abortWait_edits _ slot))

theorem abortMember_edits (slot : Slot) : Edits s (abortMember slot s) := by
  simp only [abortMember]
  split
  · exact .refl
  · exact (abortHold_edits s slot .group).trans (Edit.freed _ slot).run

theorem abortGroup_edits (g : GroupIx) (first : Slot) (reason : AbortReason) : Edits s (abortGroup g first reason s) := by
  have h := (Edits.foldl (fun t m => abortMember m t) (fun t m => abortMember_edits t m)
    ((s.group g).members.filter (· ≠ first)) s).trans (Edit.disband _ g).run
  simp only [abortGroup]
  split
  · exact h.trans (Edit.notice _ _ _).run
  · exact h

theorem abortSession_edits (slot : Slot) (reason : AbortReason) : Edits s (abortSession slot reason s) := by
  simp only [abortSession]
  split
  · exact .refl
  · refine .trans (.trans (abortHold_edits s slot reason) ?_) (Edit.freed _ slot).run
    split
    · exact .refl
    · exact abortGroup_edits _ _ _ _

theorem expireSessions_edits : Edits s (expireSessions s) := by
  refine Edits.foldl _ (fun t slot => ?_) _ _
  split
  · exact abortSession_edits t slot .expired
  · exact .refl

theorem abortPort_edits (p : PortId) : Edits s (abortPort p s) := by
  refine Edits.foldl _ (fun t slot => ?_) _ _
  split
  · exact abortSession_edits t slot .portReset
  · exact .refl

/-! ### The apply and the resolution of a group -/

theorem switchEntry_edits (e : ShadowEntry) : Edits s (switchEntry e s) := by
  simp only [switchEntry]
  refine .trans ?_ (releaseFrame_edits _ _)
  refine .trans ?_ (mapFrame_edits _ _ _)
  refine .trans ?_ (Edit.switch _ e.page e.frame).run
  split
  · exact abandonRelocation_edits s _
  · exact unlistRelocation_edits s _

theorem notifyWatchers_edits (page : LP) (handle : Handle) : Edits s (notifyWatchers page handle s) := by
  refine Edits.foldl _ (fun t p => ?_) _ _
  split
  · exact (Edit.notice t p _).run
  · exact .refl

theorem offerApplied_edits (handle : Handle) (e : ShadowEntry) : Edits s (offerApplied handle e s) :=
  (offerClaim_edits s e.page).trans (notifyWatchers_edits _ e.page handle)

theorem applyPages_edits (members : List Slot) : Edits s (applyPages members s) :=
  (Edits.foldl (fun t (w : Handle × ShadowEntry) => switchEntry w.2 t) (fun t w => switchEntry_edits t w.2) _ _).trans
    (Edits.foldl (fun t (w : Handle × ShadowEntry) => offerApplied w.1 w.2 t) (fun t w => offerApplied_edits t w.1 w.2)
      _ _)

theorem endApplied_edits (slot : Slot) : Edits s (endApplied slot s) := by
  simp only [endApplied]
  refine .trans ?_ (Edit.freed _ slot).run
  split
  · exact .refl
  · split
    · exact .refl
    · exact (Edit.service s _ _ _).run

theorem endMember_edits (slot : Slot) : Edits s (endMember slot s) := by
  simp only [endMember]
  split
  · exact endApplied_edits s slot
  · exact (endApplied_edits s slot).trans (Edit.notice _ _ _).run

theorem resolveGroup_edits (g : GroupIx) (close : Option PortId) : Edits s (resolveGroup g close s) := by
  simp only [resolveGroup]
  split
  · split
    · exact (abortSession_edits s _ _).trans (Edit.respond _ _ _).run
    · exact abortSession_edits s _ _
  · have h := ((applyPages_edits s (s.group g).members).trans
      (Edits.foldl _ (fun t m => endMember_edits t m) (s.group g).members _)).trans (Edit.disband _ g).run
    split
    · exact h.trans (Edit.respond _ _ _).run
    · exact h.trans (Edit.notice _ _ _).run
    · exact h

/-! ### Requests -/

theorem serveOpen_edits (p : PortId) (tag : Byte) (budget : BitVec 16) : Edits s (serveOpen p tag budget s) := by
  simp only [serveOpen]
  split
  · exact (Edit.respond s _ _).run
  · split
    · exact (Edit.respond s _ _).run
    · next hq =>
      split
      · exact (Edit.respond s _ _).run
      · next slot hslot =>
        split
        · exact (Edit.respond s _ _).run
        · have hfree : (s.session slot).state = .free := by
            have := List.find?_some hslot
            simpa using this
          refine .trans ?_ (Edit.respond _ _ _).run
          have h := (Edit.opened s slot p (groupOfTag tag) (if budget = 0 then s.settings.defaultBudget else budget.toNat)
            hfree (Nat.lt_of_not_le hq)).run
          split
          · exact h
          · exact h.trans (Edit.join _ _ _).run

theorem checkHandle_error_or {p : PortId} {handle : Handle} {b : Bool} {slot : Slot} {s : State}
    (h : checkHandle p handle b s = .ok slot) :
    s.named handle = some slot ∧ (s.session slot).port = some p ∧ (b = true → (s.session slot).state = .opened) := by
  simp only [checkHandle] at h
  split at h
  · cases h
  · next slot' hn =>
    split at h
    · cases h
    · next hp =>
      split at h
      · cases h
      · next ho =>
        cases h
        refine ⟨hn, by simpa using hp, fun hb => ?_⟩
        subst hb
        simpa using ho

theorem serveAbort_edits (p : PortId) (handle : Handle) : Edits s (serveAbort p handle s) := by
  simp only [serveAbort]
  split
  · exact (Edit.respond s _ _).run
  · exact (Edit.service s p _ _).run.trans ((abortSession_edits _ _ _).trans (startRelocation_edits _))

theorem serveGuard_edits (p : PortId) (handle : Handle) (page : LP) (version : BitVec 16) :
    Edits s (serveGuard p handle page version s) := by
  simp only [serveGuard]
  split
  · exact (Edit.respond s _ _).run
  · split
    · exact (modifySession_edits s _ _ Iff.rfl rfl rfl rfl).trans (Edit.respond _ _ _).run
    · exact (Edit.respond s _ _).run

theorem captureRead_edits (p : PortId) (session : Option Slot) (address length : Nat) :
    Edits s (captureRead p session address length s) := by
  simp only [captureRead]
  split
  · exact (Edit.respond s _ _).run
  · exact (pinAll_edits s _).trans (Edit.service _ p _ _).run

theorem serveRead_edits (p : PortId) (handle : Handle) (address length : BitVec 16) :
    Edits s (serveRead p handle address length s) := by
  simp only [serveRead]
  split
  · exact (Edit.respond s _ _).run
  · split
    · exact (Edit.respond s _ _).run
    · exact captureRead_edits s _ _ _ _

theorem firstWrite_edits (p : PortId) (slot : Slot) (page : LP) (address : BitVec 16) (wait : Bool) (data : List Byte) :
    Edits s (firstWrite p slot page address wait data s) := by
  simp only [firstWrite]
  split
  · exact (Edit.respond s _ _).run
  · split
    · split
      · exact (Edit.respond s _ _).run
      · split
        · exact (Edit.respond s _ _).run
        · exact (waits_edits s _).trans ((modifySession_edits _ _ _ Iff.rfl rfl rfl rfl).trans (Edit.respond _ _ _).run)
    · split
      · exact (Edit.respond s _ _).run
      · next h => exact (takeClaim_edits s _ _ _ _ h).trans (Edit.service _ p _ _).run

theorem serveWrite_edits (p : PortId) (handle : Handle) (address : BitVec 16) (flags : Byte) (data : List Byte) :
    Edits s (serveWrite p handle address flags data s) := by
  simp only [serveWrite]
  split
  · exact (Edit.respond s _ _).run
  · split
    · exact (Edit.respond s _ _).run
    · split
      · exact (Edit.respond s _ _).run
      · split
        · exact (Edit.service s p _ _).run
        · exact firstWrite_edits s _ _ _ _ _ _

theorem serveCommit_edits (p : PortId) (handle : Handle) : Edits s (serveCommit p handle s) := by
  simp only [serveCommit]
  split
  · exact (Edit.respond s _ _).run
  · next slot hc =>
    have hopen := (checkHandle_error_or hc).2.2 rfl
    split
    · exact (Edit.respond s _ _).run
    · split
      · refine .trans (Edit.service s p (some slot) .atOnce).run ?_
        split
        · exact (abortSession_edits _ _ _).trans (startRelocation_edits _)
        · exact (applyPages_edits _ _).trans ((endApplied_edits _ _).trans
            ((Edit.respond _ _ _).run.trans (startRelocation_edits _)))
      · have h := (modifySession_edits s slot (fun r => { r with state := .ready }) (by simp [hopen]) rfl rfl rfl).trans
          (Edit.respond _ p .ready).run
        split
        · exact h.trans ((resolveGroup_edits _ _ _).trans (startRelocation_edits _))
        · exact h

theorem serveClose_edits (p : PortId) (tag : Byte) : Edits s (serveClose p tag s) := by
  simp only [serveClose]
  split
  · exact (Edit.respond s _ _).run
  · split
    · exact (Edit.respond s _ _).run
    · exact (Edit.respond s _ _).run
    · split
      · exact (resolveGroup_edits _ _ _).trans (startRelocation_edits _)
      · exact (Edit.close s _ p ‹_›).run.trans (Edit.respond _ _ _).run

theorem serveWatch_edits (p : PortId) (page : LP) : Edits s (serveWatch p page s) := by
  simp only [serveWatch]
  split
  · exact (Edit.respond s _ _).run
  · next hc =>
    split
    · next hl => exact (Edit.watch s p page (by simpa using hc) hl).run.trans (Edit.respond _ _ _).run
    · exact (Edit.respond s _ _).run

theorem serveUnwatch_edits (p : PortId) (page : LP) : Edits s (serveUnwatch p page s) := by
  simp only [serveUnwatch]
  split
  · exact (Edit.unwatch s p page).run.trans (Edit.respond _ _ _).run
  · exact (Edit.respond s _ _).run

theorem serveSetConfig_edits (p : PortId) (record : ConfigRecord) : Edits s (serveSetConfig p record s) := by
  simp only [serveSetConfig]
  split
  · exact (Edit.respond s _ _).run
  · next hr =>
    split
    · exact (Edit.respond s _ _).run
    · next hf =>
      refine .trans (Edit.configure s record _ (by simpa using hr) fun slot => ?_).run (Edit.respond _ _ _).run
      by_contra hne
      exact hf (List.any_eq_true.mpr ⟨slot, List.mem_finRange slot, by simpa using hne⟩)

theorem serve_edits (p : PortId) (op : RequestOp) : Edits s (serve p op s) := by
  cases op with
  | openSession group budget => exact serveOpen_edits ..
  | abort handle => exact serveAbort_edits ..
  | guard handle page version => exact serveGuard_edits ..
  | read handle address length => exact serveRead_edits ..
  | write handle address flags data => exact serveWrite_edits ..
  | commit handle => exact serveCommit_edits ..
  | close group => exact serveClose_edits ..
  | pageInfo page => exact (Edit.respond s _ _).run
  | poolInfo => exact (Edit.respond s _ _).run
  | sessInfo slot =>
    simp only [serve, serveSessInfo]
    split <;> exact (Edit.respond s _ _).run
  | watch page => exact serveWatch_edits ..
  | unwatch page => exact serveUnwatch_edits ..
  | setConfig record => exact serveSetConfig_edits ..
  | getConfig => exact (Edit.respond s _ _).run
  | logRead seq =>
    simp only [serve, serveLogRead]
    split <;> exact (Edit.respond s _ _).run

theorem serveHead_edits (p : PortId) (hp : (s.port p).waiting = true) : Edits s (serveHead p s) := by
  simp only [serveHead]
  split
  · exact .refl
  · next r rest hr =>
    have hn : (s.port p).inService = none := by
      simpa [PortRec.waiting, hr] using hp
    have h := (Edit.take s p r rest hr hn).run
    refine h.trans ?_
    have he : takeIntoService p r (s.setPort p { s.port p with requests := rest }) =
        serve p r.op (s.setPort p { s.port p with requests := rest, inService := some ⟨r, none, .atOnce⟩ }) := by
      simp [takeIntoService]
    rw [he]
    exact serve_edits _ _ _

theorem settleUpTo_edits (n : Nat) : Edits s (settleUpTo n s) := by
  induction n generalizing s with
  | zero => exact .refl
  | succ n ih =>
    rw [settleUpTo]
    have hmem : ∀ p ∈ s.waitingPorts, (s.port p).waiting = true := fun p hp => (List.mem_filter.mp hp).2
    split
    · exact .refl
    · next p hp => exact (serveHead_edits s p (hmem p (by simp [hp]))).trans (ih _)
    · next p q rest hp =>
      refine (draws_edits s (s.draws + 1)).trans ((serveHead_edits _ _ ?_).trans (ih _))
      refine hmem _ ?_
      have hlt : Config.portDraw s.draws % (rest.length + 2) < (p :: q :: rest).length := Nat.mod_lt _ (Nat.succ_pos _)
      rw [hp, List.getD_eq_getElem _ _ hlt]
      exact List.getElem_mem hlt

theorem settle_edits : Edits s (settle s) := settleUpTo_edits s _

theorem endEvent_edits : Edits s (endEvent s) := (startRelocation_edits s).trans (settle_edits _)

/-! ### Frames on the wire -/

theorem releaseWire_edits (p : PortId) (code : Byte) (n : Nat) (judge : Bool → Nat → State → State)
    (hj : ∀ held len t, Edits t (judge held len t)) : Edits s (releaseWire p code n judge s) := by
  simp only [releaseWire]
  split
  · exact (Edit.wire s p .idle (s.port p).sdo).run
  · exact (Edit.wire s p .idle _).run.trans (hj _ _ _)

theorem checkedFrame_edits (p : PortId) (sent : List Byte) (act : State → State) (ha : Edits s (act s)) :
    Edits s (checkedFrame p sent act s) := by
  simp only [checkedFrame]
  split
  · exact .refl
  · split
    · exact ha
    · exact (Edit.discard s p _).run

theorem judged_edits (p : PortId) (judgement : Except DiscardCause Request) : Edits s (judged p judgement s) := by
  simp only [judged]
  split
  · exact (Edit.discard s p _).run
  · split
    · exact (Edit.discard s p _).run
    · split
      · exact (Edit.discard s p _).run
      · next hc => exact (Edit.accept s p _ hc).run.trans (settle_edits _)

theorem releaseRequest_edits (p : PortId) (n : Nat) (judgement : Except DiscardCause Request) :
    Edits s (releaseRequest p n judgement s) :=
  releaseWire_edits s p _ n _ fun _ _ t => judged_edits t p judgement

theorem sendRequest_edits (p : PortId) (r : Request) : Edits s (sendRequest p r s) := releaseRequest_edits ..

theorem resetPort_edits (p : PortId) : Edits s (resetPort p s) := by
  simp only [resetPort]
  split
  · refine .trans ?_ (endEvent_edits _)
    refine .trans ?_ (Edit.clear _ p).run
    refine .trans ?_ (abortPort_edits _ p)
    simp only [dropService]
    split
    · exact .refl
    · exact (stopService_edits s _ _).trans (Edit.service _ p none .atOnce).run
  · exact .refl

/-! ### Word accesses -/

theorem correctableWord_edits (pf : PF) (k : WordIx) (syn : Syndrome) (data : Word) (context : ReadContext) :
    Edits s (correctableWord pf k syn data context s) := by
  have h := (Edit.count s pf).run.trans
    (appendRecord_edits (countCorrected pf s) .corrected pf (some k) (some syn) (some context)
      ((countCorrected pf s).recordPage pf) ((countCorrected pf s).recordHandle pf))
  simp only [correctableWord]
  split
  · next hl => exact h.trans (Edit.queueWriteBack _ _ hl).run
  · exact h

theorem uncorrectableRecord_edits (pf : PF) (k : WordIx) (syn : Syndrome) (context : ReadContext) :
    Edits s (uncorrectableRecord pf k syn context s) :=
  (appendRecord_edits ..).trans (Edit.flag _ pf).run

theorem poisonPage_edits (page : LP) : Edits s (poisonPage page s) := by
  simp only [poisonPage]
  refine .trans (.trans (Edit.poison s page).run ?_) (unlistRelocation_edits _ _)
  split
  · exact abandonRelocation_edits _ _
  · exact .refl

theorem uncorrectableEffect_edits (pf : PF) (was : FrameRec) : Edits s (uncorrectableEffect pf was s) := by
  simp only [uncorrectableEffect]
  split
  · exact poisonPage_edits s _
  · exact abortSession_edits s _ _
  · exact .refl

theorem readStep_edits (p : PortId) (r : InService) (pins : List PF) (a : ReadAccess) (todo : List ReadAccess)
    (data : List Byte) : Edits s (readStep p r pins a todo data s) := by
  simp only [readStep]
  split
  · exact (Edit.service s p _ _).run
  · exact (correctableWord_edits s _ _ _ _ _).trans (Edit.service _ p _ _).run
  · exact (uncorrectableRecord_edits s _ _ _ _).trans ((stopService_edits _ _ _).trans
      ((uncorrectableEffect_edits _ _ _).trans (Edit.respond _ _ _).run))

theorem placeWord_edits {t : State} (pf : PF) (write : PendingWrite) (k : WordIx) (h : placeWord pf write k s = .ok t) :
    Edits s t := by
  simp only [placeWord] at h
  split at h
  · cases h; exact (Edit.write s _ _ _).run
  · split at h
    · cases h; exact (Edit.write s _ _ _).run
    · cases h; exact (correctableWord_edits s _ _ _ _ _).trans (Edit.write _ _ _ _).run
    · cases h

theorem placeStep_edits (p : PortId) (r : InService) (pf : PF) (write : PendingWrite) (k : WordIx) (todo : List WordIx)
    (zeroed : Bool) : Edits s (placeStep p r pf write k todo zeroed s) := by
  simp only [placeStep]
  split
  · next h => exact (placeWord_edits s _ _ _ h).trans (Edit.service _ p _ _).run
  · simp only [placeFails]
    have h := (uncorrectableRecord_edits s pf k ‹Syndrome› .read).trans (uncorrectableEffect_edits _ pf (s.frame pf))
    refine h.trans ?_
    split
    · exact (Edit.respond _ _ _).run
    · exact .refl

theorem portAccess_edits (p : PortId) : Edits s (portAccess p s) := by
  simp only [portAccess]
  split
  · exact readStep_edits ..
  · exact placeStep_edits ..
  · exact .refl

theorem setProgress_edits (progress : Progress) : Edits s (setProgress progress s) := by
  simp only [setProgress]
  split
  · exact .refl
  · exact jobs_edits s _

theorem failWrite_edits (slot : Slot) (page : LP) (target : PF) (origin : Origin) :
    Edits s (failWrite slot page target origin s) := by
  have h := (jobs_edits s s.jobs.tail).trans ((modifySession_edits _ slot
    (fun r => { r with shadows := r.shadows.filter fun e => e.page ≠ page }) Iff.rfl rfl rfl rfl).trans
    ((releaseFrame_edits _ target).trans ((Edit.claim _ page none).run.trans
    ((offerClaim_edits _ page).trans
      (modifySession_edits _ slot (fun r => { r with activity := .idle }) Iff.rfl rfl rfl rfl)))))
  simp only [failWrite]
  split
  · exact h.trans (Edit.respond _ _ _).run
  · exact h.trans (Edit.notice _ _ _).run
  · exact h

theorem copyFails_edits (job : Job) (slot : Slot) (source : PF) (write : PendingWrite) (origin : Origin) (k : WordIx)
    (syn : Syndrome) : Edits s (copyFails job slot source write origin k syn s) := by
  have h := uncorrectableRecord_edits s source k syn .copy
  simp only [copyFails]
  split
  · split
    · exact h.trans ((unpinFrame_edits _ _).trans (failWrite_edits _ _ _ _ _))
    · exact h.trans ((unpinFrame_edits _ _).trans ((jobs_edits _ _).trans (Edit.pin _ _).run))
  · exact h.trans ((uncorrectableEffect_edits _ _ _).trans ((unpinFrame_edits _ _).trans (failWrite_edits _ _ _ _ _)))

theorem relocateFails_edits (job : Job) (source : PF) (k : WordIx) (syn : Syndrome) :
    Edits s (relocateFails job source k syn s) := by
  have h := (uncorrectableRecord_edits s source k syn .relocate).trans
    (uncorrectableEffect_edits _ source (s.frame source))
  simp only [relocateFails]
  split
  · exact h.trans (abandonRelocation_edits _ _)
  · exact h

theorem fillStep_edits (job : Job) (source : PF) (k : WordIx) : Edits s (fillStep job source k s) := by
  simp only [fillStep]
  split
  · exact setProgress_edits s _
  · exact (correctableWord_edits s _ _ _ _ _).trans (setProgress_edits _ _)
  · split
    · exact copyFails_edits ..
    · exact relocateFails_edits ..
    · exact .refl

theorem jobStep_edits (job : Job) : Edits s (jobStep job s) := by
  simp only [jobStep]
  split
  · split
    · exact fillStep_edits ..
    · exact .refl
  · exact (Edit.write s _ _ _).run.trans (setProgress_edits _ _)
  · exact .refl
  · split
    · next h => exact (placeWord_edits s _ _ _ h).trans (setProgress_edits _ _)
    · exact (uncorrectableRecord_edits s _ _ _ _).trans (uncorrectableEffect_edits _ _ _)

theorem examineFrame_edits (pf : PF) : Edits s (examineFrame pf s) := by
  simp only [examineFrame]
  split
  · exact .refl
  · split
    · split
      · next h => exact (Edit.list s _ h.2.1 h.2.2).run
      · exact .refl
    · exact (Edit.flag s pf).run
    · exact .refl

theorem endScrub_edits (pf : PF) : Edits s (endScrub pf s) :=
  (scrub_edits s none).trans ((unpinFrame_edits _ _).trans ((examineFrame_edits _ _).trans (timer_edits _ _)))

theorem scrubStep_edits (r : ScrubRead) (k : WordIx) : Edits s (scrubStep r k s) := by
  simp only [scrubStep]
  split
  · exact scrub_edits s _
  · exact (correctableWord_edits s _ _ _ _ _).trans (scrub_edits _ _)
  · exact (uncorrectableRecord_edits s _ _ _ _).trans ((scrub_edits _ none).trans ((unpinFrame_edits _ _).trans
      ((uncorrectableEffect_edits _ _ _).trans ((examineFrame_edits _ _).trans (timer_edits _ _)))))

theorem clientAccess_edits (position : Nat) : Edits s (clientAccess position s) := by
  simp only [clientAccess]
  split
  · exact portAccess_edits s 0
  · exact portAccess_edits s 1
  · exact portAccess_edits s 2
  · exact portAccess_edits s 3
  · split
    · exact .refl
    · exact jobStep_edits s _
  · split
    · exact .refl
    · split
      · exact .refl
      · exact scrubStep_edits s _ _
  · split
    · exact (Edit.dropWriteBacks s [] (List.nil_sublist _)).run
    · next b rest hb =>
      have hl : rest.Sublist s.writeBacks :=
        (List.sublist_cons_self b rest).trans (hb ▸ List.dropWhile_sublist _)
      simp only [writeBackStep]
      split
      · exact (Edit.dropWriteBacks s rest hl).run.trans (Edit.write _ _ _ _).run
      · exact (Edit.dropWriteBacks s rest hl).run
  · exact .refl

theorem grant_edits (flips : BitVec 39) : Edits s (grant flips s) := by
  simp only [grant]
  split
  · exact .refl
  · refine .trans ?_ (endEvent_edits _)
    refine .trans ?_ (clientAccess_edits _ _)
    refine .trans ?_ (lastGranted_edits _ _)
    simp only [disturbFor]
    split
    · exact .refl
    · exact (Edit.disturb s _ _ _).run

/-! ### Every command -/

theorem visitFrame_edits : Edits s (visitFrame s) := by
  unfold visitFrame
  split
  · exact timer_edits s none
  · next pf _ =>
    exact (Edit.book s s.waits s.jobs s.lastGranted (pf + 1) none (some ⟨pf, 0⟩) s.draws).run.trans (Edit.pin _ pf).run

theorem completeJob_edits (job : Job) (slot : Slot) (origin : Origin) : Edits s (completeJob job slot origin s) := by
  have h : Edits s (modifySession slot (fun r => { r with activity := .idle })
      (match job.source? with
        | none => { s with jobs := s.jobs.tail }
        | some source => unpinFrame source { s with jobs := s.jobs.tail })) := by
    refine .trans ?_ (modifySession_edits _ _ _ Iff.rfl rfl rfl rfl)
    split
    · exact jobs_edits s _
    · exact (jobs_edits s _).trans (unpinFrame_edits _ _)
  simp only [completeJob]
  split
  · exact h.trans (Edit.respond _ _ _).run
  · exact h.trans (Edit.notice _ _ _).run
  · exact h

theorem switchRelocation_edits (page : LP) (source target : PF) : Edits s (switchRelocation page source target s) :=
  (jobs_edits s _).trans ((Edit.move _ page target).run.trans ((mapFrame_edits _ _ _).trans
    ((appendRecord_edits ..).trans ((unpinFrame_edits _ _).trans ((Edit.flag _ _).run.trans (releaseFrame_edits _ _))))))

/-- A frame's release is a run of edits, whatever the frame; the code's end and the assertion of CSN are too. -/
theorem codeFrame_edits (p : PortId) (code : Byte) : Edits s (codeFrame p code s) := by
  simp only [codeFrame]
  split
  · exact .refl
  · exact (Edit.wire s p _ _).run
  · exact (Edit.wire s p _ _).run
  · exact (Edit.wire s p _ _).run

/-- Every command but a device reset and the two ends of the sweep answers a next state, reached by a run of edits. -/
theorem exec_edits (i : Instr) (hd : i ≠ .deviceReset) (hi : i ≠ .initializationSweep) (he : i ≠ .sweepEnd) :
    ∃ t, exec i s = .next t ∧ Edits s t := by
  cases i with
  | deviceReset => exact absurd rfl hd
  | initializationSweep => exact absurd rfl hi
  | sweepEnd => exact absurd rfl he
  | tick =>
    refine ⟨_, rfl, .trans ?_ (endEvent_edits _)⟩
    refine (Edit.tick s).run.trans ((expireSessions_edits _).trans ?_)
    simp only [tickTimer]
    split
    · exact .refl
    · split
      · exact visitFrame_edits _
      · exact timer_edits _ _
  | expiry => exact ⟨_, rfl, (expireSessions_edits s).trans (endEvent_edits _)⟩
  | request port sent => exact ⟨_, rfl, releaseRequest_edits ..⟩
  | fetch port sent =>
    refine ⟨_, rfl, releaseWire_edits s _ _ _ _ fun held len t => checkedFrame_edits t _ _ _ ?_⟩
    split
    · exact (Edit.fetch t port).run
    · exact .refl
  | note port sent =>
    refine ⟨_, rfl, releaseWire_edits s _ _ _ _ fun held len t => checkedFrame_edits t _ _ _ ?_⟩
    split
    · exact (Edit.note t port).run
    · exact .refl
  | pstat port sent =>
    refine ⟨_, rfl, releaseWire_edits s _ _ _ _ fun held len t => checkedFrame_edits t _ _ _ ?_⟩
    split
    · exact (Edit.pstat t port).run
    · exact .refl
  | preset port sent =>
    exact ⟨_, rfl, releaseWire_edits s _ _ _ _ fun _ _ t => checkedFrame_edits t _ _ _ (resetPort_edits t port)⟩
  | unknownFrameCode port code sent =>
    refine ⟨_, rfl, ?_⟩
    split
    · exact .refl
    · exact releaseWire_edits s _ _ _ _ fun _ _ t => (Edit.discard t port _).run
  | openSession port tag group budget => exact ⟨_, rfl, sendRequest_edits ..⟩
  | abort port tag handle => exact ⟨_, rfl, sendRequest_edits ..⟩
  | guard port tag handle page version => exact ⟨_, rfl, sendRequest_edits ..⟩
  | read port tag handle address length => exact ⟨_, rfl, sendRequest_edits ..⟩
  | write port tag handle address flags data => exact ⟨_, rfl, sendRequest_edits ..⟩
  | commit port tag handle => exact ⟨_, rfl, sendRequest_edits ..⟩
  | close port tag group => exact ⟨_, rfl, sendRequest_edits ..⟩
  | pageInfo port tag page => exact ⟨_, rfl, sendRequest_edits ..⟩
  | poolInfo port tag => exact ⟨_, rfl, sendRequest_edits ..⟩
  | sessInfo port tag slot => exact ⟨_, rfl, sendRequest_edits ..⟩
  | watch port tag page => exact ⟨_, rfl, sendRequest_edits ..⟩
  | unwatch port tag page => exact ⟨_, rfl, sendRequest_edits ..⟩
  | setConfig port tag record => exact ⟨_, rfl, sendRequest_edits ..⟩
  | getConfig port tag => exact ⟨_, rfl, sendRequest_edits ..⟩
  | logRead port tag seq => exact ⟨_, rfl, sendRequest_edits ..⟩
  | storeArbiterGrant flips => exact ⟨_, rfl, grant_edits s flips⟩
  | readCompletion port =>
    refine ⟨_, rfl, ?_⟩
    split
    · exact (unpinAll_edits s _).trans ((Edit.respond _ _ _).run.trans (endEvent_edits _))
    · exact .refl
  | writePlacementEnd port =>
    refine ⟨_, rfl, ?_⟩
    split
    · exact (Edit.respond s _ _).run.trans (settle_edits _)
    · exact .refl
  | jobCompletion =>
    refine ⟨_, rfl, ?_⟩
    split
    · exact (completeJob_edits s _ _ _).trans (endEvent_edits _)
    · exact (completeJob_edits s _ _ _).trans (endEvent_edits _)
    · exact .refl
  | relocationSwitch =>
    refine ⟨_, rfl, ?_⟩
    split
    · exact (switchRelocation_edits s _ _ _).trans (endEvent_edits _)
    · exact .refl
  | relocationStart => exact ⟨_, rfl, startRelocation_edits s⟩
  | scrubVisit =>
    refine ⟨_, rfl, ?_⟩
    split
    · exact visitFrame_edits s
    · exact .refl
  | scrubReadEnd =>
    refine ⟨_, rfl, ?_⟩
    split
    · exact .refl
    · split
      · exact .refl
      · exact (endScrub_edits s _).trans (endEvent_edits _)
  | frameCodeByteEnd port part =>
    refine ⟨_, rfl, ?_⟩
    cases part with
    | csnAsserted => exact (Edit.wire s port _ _).run
    | codeByteEnd code => exact codeFrame_edits s port code

end Sys2Proof.Machine
end

