-- ==== Sys2Proof/Laws/Holders.lean ====
section
/-! SUPPORT. What each update does to the number of operations that hold a pin on a frame (R25). -/

namespace Sys2Proof.Machine

variable (s : State) (pf : PF)

/-- The holders of a frame are counted over the ports, the jobs and the scrub read alone. -/
theorem State.holders_congr {s t : State} (hp : t.ports = s.ports) (hj : t.jobs = s.jobs) (hs : t.scrub = s.scrub) :
    t.holders pf = s.holders pf := by
  simp only [State.holders, State.port, hp, hj, hs]

@[simp] theorem State.setEntry_holders (page : LP) (e : MapEntry) : (s.setEntry page e).holders pf = s.holders pf := rfl
@[simp] theorem State.setFrame_holders (other : PF) (f : FrameRec) : (s.setFrame other f).holders pf = s.holders pf := rfl
@[simp] theorem State.setSession_holders (slot : Slot) (r : SessionRec) : (s.setSession slot r).holders pf = s.holders pf :=
  rfl
@[simp] theorem State.setGroup_holders (g : GroupIx) (r : GroupRec) : (s.setGroup g r).holders pf = s.holders pf := rfl
@[simp] theorem State.writeWord_holders (other : PF) (k : WordIx) (data : Word) :
    (s.writeWord other k data).holders pf = s.holders pf := rfl
@[simp] theorem State.disturbWord_holders (other : PF) (k : WordIx) (flips : BitVec 39) :
    (s.disturbWord other k flips).holders pf = s.holders pf := rfl

/-- A replaced port record changes the holders by what the READ in service on it pinned before and pins now. -/
theorem State.setPort_holders (p : PortId) (r : PortRec) :
    (s.setPort p r).holders pf + (s.port p).pinned.count pf = s.holders pf + r.pinned.count pf := by
  have h : ((List.finRange 4).map fun q => ((s.setPort p r).port q).pinned.count pf).sum + (s.port p).pinned.count pf =
      ((List.finRange 4).map fun q => (s.port q).pinned.count pf).sum + r.pinned.count pf := by
    rw [show List.finRange 4 = [0, 1, 2, 3] from rfl]
    simp only [List.map_cons, List.map_nil, List.sum_cons, List.sum_nil, State.setPort_port]
    fin_cases p <;> simp <;> omega
  have hj : (s.setPort p r).jobs = s.jobs := rfl
  have hs : (s.setPort p r).scrub = s.scrub := rfl
  simp only [State.holders, hj, hs] at h ⊢
  omega

/-- A port record whose READ pins what it pinned leaves the holders. -/
theorem State.setPort_holders_same (p : PortId) (r : PortRec) (h : r.pinned = (s.port p).pinned) :
    (s.setPort p r).holders pf = s.holders pf := by
  have := s.setPort_holders pf p r
  rw [h] at this
  omega

end Sys2Proof.Machine
end

