-- ==== Sys2Proof/Laws/Requests.lean ====
section
/-! SUPPORT. What the acceptance of a request does at a port that is free, said once for all fifteen request rows, and what
the end of an event does where nothing waits to follow it. -/

namespace Sys2Proof.Machine

variable {s : State}

/-- The ports with a request to take are the ones that wait. -/
theorem waitingPorts_eq_nil (h : s.QueueLaw) : s.waitingPorts = [] := by
  simp only [State.waitingPorts, List.filter_eq_nil_iff]
  intro p _
  simp [h p]

/-- Where no port has a request to take, none is taken. -/
theorem settleUpTo_of_queueLaw (h : s.QueueLaw) (n : Nat) : settleUpTo n s = s := by
  cases n with
  | zero => rfl
  | succ n => rw [settleUpTo, waitingPorts_eq_nil h]

theorem settle_of_queueLaw (h : s.QueueLaw) : settle s = s := settleUpTo_of_queueLaw h _

/-- No relocation is due: none is started. -/
theorem startRelocation_of_none (h : relocationDue s = none) : startRelocation s = s := by
  rw [startRelocation, h]

/-- An event with nothing to follow it ends as it stands. -/
theorem endEvent_of_quiet (h : s.Quiet) : endEvent s = s := by
  rw [endEvent, startRelocation_of_none h.1, settle_of_queueLaw h.2]

/-- A state in which one port alone has a request to take lets that port take it. -/
theorem settleUpTo_one (p : PortId) (hp : (s.port p).waiting = true) (ho : ∀ q, q ≠ p → (s.port q).waiting = false)
    (n : Nat) : settleUpTo (n + 1) s = settleUpTo n (serveHead p s) := by
  have h : s.waitingPorts = [p] := by
    have : ∀ q ∈ List.finRange 4, (s.port q).waiting = decide (q = p) := fun q _ => by
      by_cases hq : q = p
      · simp [hq, hp]
      · simp [hq, ho q hq]
    rw [State.waitingPorts, List.filter_congr this]
    clear this hp ho
    revert p
    decide
  rw [settleUpTo, h]

/-- The requests queued at all ports, one port's queue counted apart. -/
theorem queued_setPort (p : PortId) (r : PortRec) :
    (s.setPort p r).queued + (s.port p).requests.length = s.queued + r.requests.length := by
  have h : ∀ f : PortId → Nat, ((List.finRange 4).map f).sum = f 0 + f 1 + f 2 + f 3 := fun f => by
    rw [show List.finRange 4 = [0, 1, 2, 3] by decide]
    simp; omega
  simp only [State.queued, h]
  match p with
  | 0 => simp [State.setPort_port]; omega
  | 1 => simp [State.setPort_port]; omega
  | 2 => simp [State.setPort_port]; omega
  | 3 => simp [State.setPort_port]; omega

/-- A well-formed request's frame is judged as carrying it. -/
theorem sendRequest_of_wellFormed (p : PortId) {r : Request} (hw : r.op.wellFormed = true) :
    sendRequest p r s = releaseRequest p (r.op.params.length + 4) (.ok r) s := by
  obtain ⟨tag, op⟩ := r
  cases op with
  | write handle address flags data =>
    have hd : data.length ≤ Config.writeMax := by simpa [RequestOp.wellFormed] using hw
    simp [sendRequest, hd]
  | _ => rfl

/-- A well-formed request sent to a free port is taken into service in the event that accepts it, and served. -/
theorem sendRequest_of_free {p : PortId} {r : Request} (hp : s.PortFree p) (hw : r.op.wellFormed = true) :
    sendRequest p r s = settleUpTo s.queued (serve p r.op (s.serving p r none .atOnce)) := by
  obtain ⟨hready, hwire, hcredit, hqueue, hservice, hothers⟩ := hp
  rw [sendRequest_of_wellFormed p hw, releaseRequest, releaseWire]
  simp only [PortRec.wireAt, hwire]
  have hready' : (!(s.port p).ready) = false := by simp [hready]
  simp only [judged, endFrame, State.setPort_port_self, hready', Bool.false_eq_true, if_false,
    Nat.ne_of_gt hcredit, hqueue, List.nil_append, State.setPort_setPort]
  have hq := queued_setPort (s := s) p
    { (s.port p).took (requestSize r) with requests := [r] }
  simp only [hqueue, List.length_nil, List.length_cons, Nat.zero_add, Nat.add_zero] at hq
  have hshift : shiftedOut ((s.port p).fixRecord 0x52#8).1 (r.op.params.length + 4) =
      List.replicate (r.op.params.length + 4) 0x00#8 := by
    simp [PortRec.fixRecord, shiftedOut]
  rw [settle, hshift]
  show settleUpTo (s.setPort p { (s.port p).took (requestSize r) with requests := [r] }).queued
    (s.setPort p { (s.port p).took (requestSize r) with requests := [r] }) = _
  rw [hq, settleUpTo_one p]
  · congr 1
    simp [serveHead, takeIntoService, State.serving, PortRec.took, hqueue]
  · simp [PortRec.waiting, PortRec.took, hservice]
  · intro q hne
    rw [State.setPort_port_of_ne s _ hne]
    exact hothers q

/-- A request served whole at a free port, the state otherwise as it was. -/
theorem respond_serving (p : PortId) (r : Request) (session : Option Slot) (stage : Stage) (a : Answer) :
    respond p a (s.serving p r session stage) = s.answered p r a := by
  have h : ∀ (l : List Response) (x : Response), (l ++ [x]).isEmpty = false := fun l x => by cases l <;> rfl
  simp [respond, State.serving, State.answered, PortRec.evalAttn, attnWanted, PortRec.took, h]

/-- An answered port has nothing to take. -/
theorem answered_queueLaw {p : PortId} (hp : s.PortFree p) (r : Request) (a : Answer) : (s.answered p r a).QueueLaw := by
  intro q
  by_cases hq : q = p
  · subst hq
    simp [State.answered, PortRec.waiting, PortRec.took, hp.queue]
  · rw [State.answered, State.setPort_port_of_ne s _ hq]
    exact hp.others q

/-- A port that serves a request has nothing to take. -/
theorem serving_queueLaw {p : PortId} (hp : s.PortFree p) (r : Request) (session : Option Slot) (stage : Stage) :
    (s.serving p r session stage).QueueLaw := by
  intro q
  by_cases hq : q = p
  · subst hq
    simp [State.serving, PortRec.waiting, PortRec.took]
  · rw [State.serving, State.setPort_port_of_ne s _ hq]
    exact hp.others q

end Sys2Proof.Machine
end

