-- ==== Sys2Proof/Laws/Store.lean ====
section
/-! SUPPORT. The laws of the store: what a read gives after a write, and that every write keeps the store's one form. -/

namespace Sys2Proof.Machine

/-- A store in its one form, read as a list with rising addresses, all inside the array, and no blank cell. -/
theorem storeWf_iff (m : List StoreCell) :
    storeWf m = true ↔ m.Pairwise (fun x y => x.1 < y.1) ∧ ∀ c ∈ m, c.1 < 32768 ∧ c.2 ≠ .blank := by
  simp [storeWf]

/-- Below every address of a store nothing is listed. -/
theorem storeRead_of_lt {m : List StoreCell} {a : Nat} (h : ∀ c ∈ m, a < c.1) : storeRead m a = .blank := by
  induction m with
  | nil => rfl
  | cons c rest ih =>
    have hc := h c (by simp)
    rw [storeRead, if_neg (by omega)]
    exact ih fun d hd => h d (by simp [hd])

/-- A read after a write to the same address gives what was written. -/
theorem storeRead_storeWrite_self {m : List StoreCell} (hm : m.Pairwise fun x y => x.1 < y.1) (a : Nat) (w : StoreWord) :
    storeRead (storeWrite m a w) a = w := by
  induction m with
  | nil => by_cases hw : w = .blank <;> simp [storeWrite, storeRead, hw]
  | cons c rest ih =>
    obtain ⟨at', x⟩ := c
    obtain ⟨hlt, hrest⟩ := List.pairwise_cons.mp hm
    rw [storeWrite]
    split
    · next ha =>
      split
      · next hw =>
        rw [hw]
        refine storeRead_of_lt fun c hc => ?_
        rcases List.mem_cons.mp hc with rfl | hc
        · exact ha
        · exact Nat.lt_trans ha (hlt c hc)
      · simp [storeRead]
    · split
      · next he =>
        split
        · next hw =>
          rw [hw]
          exact storeRead_of_lt fun c hc => he ▸ hlt c hc
        · simp [storeRead]
      · next hn he =>
        rw [storeRead, if_neg he]
        exact ih hrest

/-- A write leaves every other address as it was. -/
theorem storeRead_storeWrite_of_ne {m : List StoreCell} (hm : m.Pairwise fun x y => x.1 < y.1) {a b : Nat} (hab : b ≠ a)
    (w : StoreWord) : storeRead (storeWrite m a w) b = storeRead m b := by
  induction m with
  | nil => by_cases hw : w = .blank <;> simp [storeWrite, storeRead, hw, hab]
  | cons c rest ih =>
    obtain ⟨at', x⟩ := c
    obtain ⟨hlt, hrest⟩ := List.pairwise_cons.mp hm
    rw [storeWrite]
    split
    · split
      · rfl
      · rw [storeRead, if_neg hab]
    · split
      · next he =>
        have hb : b ≠ at' := he ▸ hab
        split
        · rw [storeRead, if_neg hb]
        · rw [storeRead, storeRead, if_neg hab, if_neg hb]
      · rw [storeRead, storeRead]
        split
        · rfl
        · exact ih hrest

/-- The cells of a store after a write: the cell written, unless it is blank, and cells there before. -/
theorem mem_storeWrite {m : List StoreCell} {a : Nat} {w : StoreWord} {c : StoreCell} (h : c ∈ storeWrite m a w) :
    (c = (a, w) ∧ w ≠ .blank) ∨ c ∈ m := by
  induction m with
  | nil =>
    by_cases hw : w = .blank
    · simp [storeWrite, hw] at h
    · simp only [storeWrite, hw, if_false, List.mem_singleton] at h
      exact .inl ⟨h, hw⟩
  | cons d rest ih =>
    obtain ⟨at', x⟩ := d
    rw [storeWrite] at h
    split at h
    · split at h
      · exact .inr h
      · next hw =>
        rcases List.mem_cons.mp h with h | h
        · exact .inl ⟨h, hw⟩
        · exact .inr h
    · split at h
      · split at h
        · exact .inr (List.mem_cons_of_mem _ h)
        · next hw =>
          rcases List.mem_cons.mp h with h | h
          · exact .inl ⟨h, hw⟩
          · exact .inr (List.mem_cons_of_mem _ h)
      · rcases List.mem_cons.mp h with h | h
        · exact .inr (h ▸ List.mem_cons_self ..)
        · exact (ih h).imp_right (List.mem_cons_of_mem _)

/-- A write keeps the addresses rising. -/
theorem pairwise_storeWrite {m : List StoreCell} (hm : m.Pairwise fun x y => x.1 < y.1) (a : Nat) (w : StoreWord) :
    (storeWrite m a w).Pairwise fun x y => x.1 < y.1 := by
  induction m with
  | nil => by_cases hw : w = .blank <;> simp [storeWrite, hw]
  | cons c rest ih =>
    obtain ⟨at', x⟩ := c
    obtain ⟨hlt, hrest⟩ := List.pairwise_cons.mp hm
    rw [storeWrite]
    split
    · next ha =>
      split
      · exact hm
      · refine List.pairwise_cons.mpr ⟨fun d hd => ?_, hm⟩
        rcases List.mem_cons.mp hd with rfl | hd
        · exact ha
        · exact Nat.lt_trans ha (hlt d hd)
    · split
      · next he =>
        split
        · exact hrest
        · exact List.pairwise_cons.mpr ⟨fun d hd => he ▸ hlt d hd, hrest⟩
      · next hn he =>
        refine List.pairwise_cons.mpr ⟨fun d hd => ?_, ih hrest⟩
        rcases mem_storeWrite hd with ⟨rfl, -⟩ | hd
        · exact Nat.lt_of_le_of_ne (Nat.le_of_not_lt hn) (Ne.symm he)
        · exact hlt d hd

/-- A write inside the array keeps the store's one form. -/
theorem storeWf_storeWrite {m : List StoreCell} (hm : storeWf m = true) {a : Nat} (ha : a < 32768) (w : StoreWord) :
    storeWf (storeWrite m a w) = true := by
  rw [storeWf_iff] at hm ⊢
  refine ⟨pairwise_storeWrite hm.1 a w, fun c hc => ?_⟩
  rcases mem_storeWrite hc with ⟨rfl, hw⟩ | hc
  · exact ⟨ha, hw⟩
  · exact hm.2 c hc

/-- Every word of every page frame has its address inside the array. -/
theorem storeAddress_lt (pf : PF) (k : WordIx) : storeAddress pf k < 32768 := by
  have := pf.isLt; have := k.isLt; simp only [storeAddress]; omega

/-- Two words with one address are one word of one frame. -/
theorem storeAddress_inj {pf pf' : PF} {k k' : WordIx} (h : storeAddress pf k = storeAddress pf' k') :
    pf = pf' ∧ k = k' := by
  have := k.isLt; have := k'.isLt
  simp only [storeAddress] at h
  exact ⟨Fin.ext (by omega), Fin.ext (by omega)⟩

/-- A word write keeps the store's one form. -/
theorem storeWf_writeWord {s : State} (h : storeWf s.store = true) (pf : PF) (k : WordIx) (data : Word) :
    storeWf (s.writeWord pf k data).store = true :=
  storeWf_storeWrite h (storeAddress_lt pf k) _

/-- A disturbance keeps the store's one form. -/
theorem storeWf_disturbWord {s : State} (h : storeWf s.store = true) (pf : PF) (k : WordIx) (flips : BitVec 39) :
    storeWf (s.disturbWord pf k flips).store = true := by
  simp only [State.disturbWord, storeDisturb]
  split
  · exact h
  · exact storeWf_storeWrite h (storeAddress_lt pf k) _

/-- A word just written reads back as written, with check bits that belong to it (R31). -/
theorem writeWord_word_self {s : State} (h : storeWf s.store = true) (pf : PF) (k : WordIx) (data : Word) :
    (s.writeWord pf k data).word pf k = .fresh data :=
  storeRead_storeWrite_self ((storeWf_iff _).mp h).1 _ _

/-- A word write leaves every other word of the store as it was. -/
theorem writeWord_word_of_ne {s : State} (h : storeWf s.store = true) {pf pf' : PF} {k k' : WordIx}
    (hne : ¬ (pf' = pf ∧ k' = k)) (data : Word) : (s.writeWord pf k data).word pf' k' = s.word pf' k' :=
  storeRead_storeWrite_of_ne ((storeWf_iff _).mp h).1 (fun e => hne (storeAddress_inj e)) _

/-- A disturbance reaches the word disturbed. -/
theorem disturbWord_word_self {s : State} (h : storeWf s.store = true) (pf : PF) (k : WordIx) {flips : BitVec 39}
    (hf : flips ≠ 0) : (s.disturbWord pf k flips).word pf k = (s.word pf k).disturb flips := by
  simp only [State.disturbWord, storeDisturb, hf, if_false]
  exact storeRead_storeWrite_self ((storeWf_iff _).mp h).1 _ _

/-- A disturbance leaves every other word as it was. -/
theorem disturbWord_word_of_ne {s : State} (h : storeWf s.store = true) {pf pf' : PF} {k k' : WordIx}
    (hne : ¬ (pf' = pf ∧ k' = k)) (flips : BitVec 39) : (s.disturbWord pf k flips).word pf' k' = s.word pf' k' := by
  simp only [State.disturbWord, storeDisturb]
  split
  · rfl
  · exact storeRead_storeWrite_of_ne ((storeWf_iff _).mp h).1 (fun e => hne (storeAddress_inj e)) _

/-- No disturbance, no change. -/
theorem disturbWord_zero (s : State) (pf : PF) (k : WordIx) : s.disturbWord pf k 0 = s := by
  simp [State.disturbWord, storeDisturb]

/-- The store after a device reset has its one form. -/
theorem storeWf_reset : storeWf State.reset.store = true := by decide

/-- A word just written decodes clean with its own data (R31, R126). -/
@[simp] theorem decode_fresh (data : Word) : (StoreWord.fresh data).decode = .clean data := by
  have h : syndromeWeight 0#7 = 0 := by decide
  simp [StoreWord.decode, StoreWord.fresh, h]

end Sys2Proof.Machine
end

