-- ==== Sys2Proof/Tests/Slice0.lean ====
section
/-! SUPPORT. Tests on small states: ill-formed commands refused, values the manual states, one step of each command, and for
every statement with hypotheses a state and operands that meet them all. -/

namespace Sys2Proof.Tests

set_option Elab.async false

open Sys2Proof Sys2Proof.Machine

/-! ## Well-formedness -/

theorem test_write_of_65_bytes_is_ill_formed :
    (Instr.write 0 0x11 0x08 0x0000 0x00 (List.replicate 65 0xAA)).wellFormed = false := by decide

theorem test_write_of_64_bytes_is_well_formed :
    (Instr.write 0 0x11 0x08 0x0000 0x00 (List.replicate 64 0xAA)).wellFormed = true := by decide

theorem test_known_frame_code_is_no_unknown_one : (Instr.unknownFrameCode 2 0x52 []).wellFormed = false := by decide

theorem test_unknown_frame_code_is_well_formed : (Instr.unknownFrameCode 2 0x51 []).wellFormed = true := by decide

/-! ## Values the manual states -/

/-- R173: the CRC of the span 0x00 is 0xF3, that of an empty span 0xFF. -/
theorem test_crc_examples : crc8 [0x00] = 0xF3 ∧ crc8 [] = 0xFF := by decide

/-- R41: the first session in slot 3 after a device reset has handle 0x0B. -/
theorem test_first_handle_of_slot_3 : handleOf ((State.reset.session 3).generation + 1) 3 = 0x0B := by decide +kernel

/-- R41: the sixteenth session in a slot has generation 0. -/
theorem test_generation_wraps : (15#4 + 1) = 0 ∧ handleOf 0 7 = 0x07 := by decide

/-- R180: the settings record after a device reset. -/
theorem test_reset_settings_bytes :
    State.reset.settings.bytes = [0x14, 0x00, 0x03, 0xF4, 0x01, 0x02, 0x02, 0x02, 0x02, 0x03, 0x03, 0x03, 0x03] := by
  decide +kernel

/-- R5: 65535 is followed by 1. -/
theorem test_version_wraps : nextVersion 65535 = 1 ∧ nextVersion 0 = 1 ∧ nextVersion 65534 = 65535 := by decide

/-- R1: a READ of 4 bytes from address 0x02FE covers LP 2 and LP 3. -/
theorem test_span_of_two_pages : spanPieces 0x02FE 4 = [(2, 254, 255), (3, 0, 1)] := by decide

/-! ## Small states -/

/-- A device in service: the sweep has ended and every port is READY. -/
def live : State :=
  { State.reset with
    phase := .running
    timer := some 20
    ports := #v[{ PortRec.reset with ready := true }, { PortRec.reset with ready := true },
      { PortRec.reset with ready := true }, { PortRec.reset with ready := true }] }

/-- An OPEN session of HP0, its first in its slot. -/
def opened : SessionRec := { SessionRec.reset with generation := 1, port := some 0, state := .opened, budget := 5 }

/-- The device with a session in slot 0, whose handle is 0x08. -/
def withSession (r : SessionRec) : State := live.setSession 0 r

/-- The device with a request in service on HP0. -/
def inService (stage : Stage) : State :=
  live.setPort 0
    { PortRec.reset with
      ready := true, credits := 3
      inService := some ⟨⟨0x11, .write 0x08 0x0003 0x00 [0xAA]⟩, none, stage⟩ }

/-- What a command answers, the state as it stood where it answers none. -/
def after (c : Instr) (s : State) : State :=
  match exec c s with
  | .next t => t
  | .fault f => nomatch f
  | .refused _ => s

/-- The answers held at a port. -/
def answers (p : PortId) (s : State) : List Answer := (s.port p).responses.map Response.answer

/-- The notices held at a port. -/
def notes (p : PortId) (s : State) : List NoticeBody := (s.port p).notices.map Notice.body

theorem live_queueLaw : live.QueueLaw := by unfold State.QueueLaw; decide +kernel

/-- A port of a state that has the ports of the device in service is free. -/
theorem free_of_ports {s : State} (p : PortId) (h : s.ports = live.ports) : s.PortFree p := by
  have hp : ∀ q, s.port q = live.port q := fun q => by simp only [State.port, h]
  have ho : s.QueueLaw := fun q => by rw [hp q]; exact live_queueLaw q
  refine ⟨?_, ?_, ?_, ?_, ?_, ho⟩ <;> (rw [hp p]; revert p; decide +kernel)

theorem live_free : live.PortFree 0 := free_of_ports 0 rfl

theorem session_free (r : SessionRec) : (withSession r).PortFree 0 := free_of_ports 0 rfl

theorem live_quiet : live.Quiet := ⟨by decide +kernel, live_queueLaw⟩

/-! ## One step of each command -/

theorem test_deviceReset_empties_port :
    (after .deviceReset (withSession opened)).session 0 = SessionRec.reset := by decide +kernel

theorem test_sweep_blanks_store :
    (after .initializationSweep { State.reset with store := [(5, ⟨1, 1⟩)] }).store = [] := by decide +kernel

theorem test_sweepEnd_makes_ready :
    ((after .sweepEnd { State.reset with phase := .sweeping }).port 3).ready = true := by decide +kernel

theorem test_tick_lowers_budget : ((after .tick (withSession opened)).session 0).budget = 4 := by decide +kernel

theorem test_tick_expires :
    notes 0 (after .tick (withSession { opened with budget := 1 })) = [.sessionAborted 0x08 .expired] := by decide +kernel

theorem test_expiry :
    ((after .expiry (withSession { opened with budget := 0 })).session 0).state = .free := by decide +kernel

/-- R162: a REQUEST frame cut short is discarded with cause TRUNCATED. -/
theorem test_request_truncated : ((after (.request 0 [0x09, 0x11]) live).port 0).cause = .truncated := by decide +kernel

/-- R162, R36: a POOLINFO written out as its bytes, its CRC computed by R173. -/
theorem test_request_poolinfo :
    ((after (.request 0 [0x09, 0x11, 0x00, crc8 [0x09, 0x11, 0x00]]) live).port 0).responses.map Response.tag = [0x11] := by
  decide +kernel

theorem test_fetch_empty_record :
    ((after (.fetch 1 [0xFF, 0, 0, 0, 0, 0]) live).port 1).sdo.drop 1 = [0, 0, 0, 0, crc8 [0, 0, 0, 0], 0] := by
  decide +kernel

theorem test_note_removes_head :
    ((after (.note 0 (List.replicate 9 0xFF)) (after .tick (withSession { opened with budget := 1 }))).port 0).notices = [] := by
  decide +kernel

theorem test_pstat_clears_ferr :
    ((after (.pstat 0 (List.replicate 11 0xFF)) (after (.request 0 []) live)).port 0).ferr = false := by decide +kernel

theorem test_preset_frees_session : ((after (.preset 0 [0xFF]) (withSession opened)).session 0).state = .free := by
  decide +kernel

theorem test_preset_wrong_check : ((after (.preset 0 [0xFE]) (withSession opened)).port 0).cause = .crc := by decide +kernel

theorem test_unknown_code : ((after (.unknownFrameCode 0 0x00 [1, 2]) live).port 0).cause = .frameCode := by decide +kernel

theorem test_open : answers 0 (after (.openSession 0 0x11 0 0) live) = [.openedOk 0x08] := by decide +kernel

theorem test_open_quota :
    answers 0 (after (.openSession 0 0x11 0 0) { live with settings := { Settings.reset with quotas := #v[0, 2, 2, 2] } }) =
      [.quota] := by decide +kernel

theorem test_abort : answers 0 (after (.abort 0 0x11 0x08) (withSession opened)) = [.done] := by decide +kernel

theorem test_abort_stale : answers 0 (after (.abort 0 0x11 0x10) (withSession opened)) = [.stale] := by decide +kernel

theorem test_guard :
    ((after (.guard 0 0x11 0x08 7 3) (withSession opened)).session 0).guards = [⟨7, 3⟩] := by decide +kernel

theorem test_read_pins : ((after (.read 0 0x11 0x80 0x02FE 4) live).frame 3).pins = 1 := by decide +kernel

theorem test_read_bounds : answers 0 (after (.read 0 0x11 0x80 0xFFFF 2) live) = [.bounds] := by decide +kernel

theorem test_write_first :
    ((after (.write 0 0x11 0x08 0x0703 0 [0xAA]) (withSession opened)).session 0).shadows = [⟨7, 256, false⟩] := by
  decide +kernel

theorem test_write_two_pages :
    answers 0 (after (.write 0 0x11 0x08 0x07FF 0 [1, 2]) (withSession opened)) = [.bounds] := by decide +kernel

theorem test_commit :
    ((after (.commit 0 0x11 0x08) (withSession { opened with shadows := [⟨7, 256, false⟩] })).entry 7).version = 1 := by
  decide +kernel

theorem test_commit_guard :
    answers 0 (after (.commit 0 0x11 0x08) (withSession { opened with guards := [⟨7, 1⟩] })) =
      [.aborted (.guard 7)] := by decide +kernel

theorem test_close_empty : answers 0 (after (.close 0 0x11 4) live) = [.groupEmpty] := by decide +kernel

theorem test_pageinfo :
    answers 0 (after (.pageInfo 0 0x11 9) live) = [.pageInfo ⟨9, 9, 0, .normal, none, false, 0⟩] := by decide +kernel

theorem test_poolinfo :
    answers 0 (after (.poolInfo 0 0x11) live) = [.poolInfo ⟨256, 256, 0, 0, 0, 0, 256, 0⟩] := by decide +kernel

theorem test_sessinfo_of_free_slot :
    answers 0 (after (.sessInfo 0 0x11 7) live) = [.sessInfo ⟨0x07, .free, none, none, 0, .idle, 0, 0, false, 0, none⟩] := by
  decide +kernel

theorem test_watch : ((after (.watch 2 0x11 9) live).port 2).watches = [9] := by decide +kernel

theorem test_unwatch : answers 2 (after (.unwatch 2 0x11 9) live) = [.notWatched] := by decide +kernel

/-- A settings record with scrub period 0 and the RESP mask of HP0 off. -/
def quietRecord : ConfigRecord := ⟨0, 3, 500, #v[2, 2, 2, 8], #v[0x02, 0x03, 0x03, 0x07]⟩

theorem test_setconfig : (after (.setConfig 0 0x11 quietRecord) live).timer = none := by decide +kernel

theorem test_setconfig_attn : ((after (.setConfig 0 0x11 quietRecord) live).port 0).attn = false := by decide +kernel

theorem test_getconfig : answers 0 (after (.getConfig 0 0x11) live) = [.config Settings.reset] := by decide +kernel

theorem test_logread : answers 0 (after (.logRead 0 0x11 0) live) = [.logEmpty 0] := by decide +kernel

/-- A word of PF 5 with one check bit disturbed. -/
def oneBit : State := { live with store := [(320, ⟨0, 1⟩)], scrub := some ⟨5, 0⟩, timer := none }

/-- A word of PF 5 with two check bits disturbed. -/
def twoBits : State := { live with store := [(320, ⟨0, 3⟩)], scrub := some ⟨5, 0⟩, timer := none }

theorem test_grant_corrects : ((after (.storeArbiterGrant 0) oneBit).frame 5).corrected = 1 := by decide +kernel

theorem test_grant_poisons : ((after (.storeArbiterGrant 0) twoBits).entry 5).condition = .poisoned := by decide +kernel

theorem test_readCompletion :
    answers 0 (after (.readCompletion 0) (inService (.reading [5] [] [0xAB]))) = [.readOk [0xAB]] := by decide +kernel

theorem test_writePlacementEnd :
    answers 0 (after (.writePlacementEnd 0) (inService (.placing 300 ⟨3, [0xAA]⟩ [] true))) = [.writeOk false true] := by
  decide +kernel

/-- The device with a job of slot 0 at its end, for the WRITE in service on HP0. -/
def jobEnded (kind : JobKind) : State :=
  { (inService .copying).setSession 0 { opened with activity := .copying, shadows := [⟨7, 256, false⟩] } with
    jobs := [⟨kind, 7, 256, .place []⟩] }

theorem test_jobCompletion :
    answers 0 (after .jobCompletion (jobEnded (.copy 0 7 ⟨3, [0xAA]⟩ .inService))) = [.writeOk true false] := by
  decide +kernel

/-- The device with a RELOCATE job at its end: LP 7 from PF 7 to PF 256. -/
def relocated : State :=
  { (live.setFrame 7 { live.frame 7 with pins := 1 }).setFrame 256
      { live.frame 256 with state := .moving, owner := some (.page 7) } with
    pool := live.pool.tail
    jobs := [⟨.relocate 7, 7, 256, .place []⟩] }

theorem test_relocationSwitch : ((after .relocationSwitch relocated).entry 7).frame = 256 := by decide +kernel

theorem test_relocationSwitch_retires : ((after .relocationSwitch relocated).frame 7).state = .retired := by decide +kernel

theorem test_relocationStart : (after .relocationStart { live with relocations := [9, 8] }).relocations = [8] := by
  decide +kernel

theorem test_scrubVisit : (after .scrubVisit { live with timer := some 0, cursor := 511 }).cursor = 1 := by decide +kernel

/-- The device at the end of a scrub read of PF 5, three corrections counted there, the pool empty. -/
def scrubbed : State :=
  { live.setFrame 5 { live.frame 5 with corrected := 3, pins := 1 } with scrub := some ⟨5, 64⟩, pool := [] }

theorem test_scrubReadEnd : (after .scrubReadEnd scrubbed).relocations = [5] := by decide +kernel

theorem test_frameCodeByteEnd :
    ((after (.frameCodeByteEnd 0 .csnAsserted) live).port 0).wire = .begun 0x84 := by decide +kernel

/-! ## Every statement's hypotheses can be met

One theorem for each statement, or for each of its clauses at a boundary value, shows a state and operands that meet all of its
hypotheses together. -/

theorem quiet_of_ports {s : State} (h : s.ports = live.ports) (hr : s.relocations = []) : s.Quiet :=
  ⟨by simp [relocationDue, hr], (free_of_ports 0 h).others⟩

theorem noneQueued_of_ports {s : State} (h : s.ports = live.ports) : s.NoneQueued := by
  have hp : ∀ q, s.port q = live.port q := fun q => by simp only [State.port, h]
  intro q
  rw [hp q]
  revert q
  decide +kernel

theorem inService_queueLaw (stage : Stage) : (inService stage).QueueLaw := by
  intro q
  rw [inService, State.setPort_port]
  split
  · rfl
  · exact live_queueLaw q

/-- A state with the ports of a device that serves one request has no request to take. -/
theorem queueLaw_of_inService {s : State} {stage : Stage} (h : s.ports = (inService stage).ports) : s.QueueLaw := by
  intro q
  have hp : s.port q = (inService stage).port q := by simp only [State.port, h]
  rw [hp]
  exact inService_queueLaw stage q

theorem quiet_of_inService {s : State} {stage : Stage} (h : s.ports = (inService stage).ports) (hr : s.relocations = []) :
    s.Quiet := ⟨by simp [relocationDue, hr], queueLaw_of_inService h⟩

/-! ### Resets, the tick and events not due -/

theorem witness_SweepAndItsEnd :
    State.reset.phase = .inReset ∧ ({ State.reset with phase := .sweeping } : State).phase = .sweeping := by decide +kernel

theorem witness_TickCountsAndExpires_counts :
    let s : State := { withSession { opened with budget := 2 } with timer := some 2 }
    s.Quiet ∧ (∀ slot, (s.session slot).state ≠ .free → 2 ≤ (s.session slot).budget) ∧
      ∀ n, s.timer = some n → 2 ≤ n :=
  ⟨quiet_of_ports rfl rfl, by decide +kernel, by rintro n ⟨⟩; decide⟩

theorem witness_TickCountsAndExpires_expires :
    let s := withSession { opened with budget := 1 }
    s.NoneQueued ∧ (s.session 0).state ≠ .free ∧ (s.session 0).budget ≤ 1 :=
  ⟨noneQueued_of_ports rfl, by decide +kernel⟩

theorem witness_TickCountsAndExpires_expiry :
    let s := withSession { opened with budget := 0 }
    s.NoneQueued ∧ (s.session 0).state ≠ .free ∧ (s.session 0).budget = 0 :=
  ⟨noneQueued_of_ports rfl, by decide +kernel⟩

/-- HP0 holds n notices, and its session in slot 0 has a budget left. -/
def expiring (budget n : Nat) (service : Option InService) : State :=
  (withSession { opened with budget := budget }).setPort 0
    { live.port 0 with notices := List.replicate n ⟨.fault 0 .corrected, true⟩, inService := service }

theorem witness_TickCountsAndExpires_notice :
    (∀ b ∈ [0, 1], ∀ n ∈ [7, 8], let s := expiring b n none
      (∀ p, (s.port p).waiting = false) ∧ (s.session 0).state ≠ .free ∧ (s.session 0).budget = b ∧
        (s.session 0).port = some 0 ∧ (s.session 0).group = none ∧
        (∀ other, other ≠ 0 → (s.session other).state = .free) ∧ s.settings.faultNotices[(0 : PortId)] = false ∧
        (s.port 0).requests = [] ∧ (s.port 0).notices.length = n ∧ (s.port 0).inService = none) ∧
      (expiring 0 7 none).waits = [] := by decide +kernel

theorem witness_TickCountsAndExpires_response :
    let s := expiring 1 0 (some ⟨⟨0x11, .read 0x08 0x0703 1⟩, some 0, .reading [7] [] [0xAB]⟩)
    s.QueueLaw ∧ (s.session 0).state ≠ .free ∧ (s.session 0).budget = 1 ∧ (s.session 0).port = some 0 ∧
      (s.session 0).group = none ∧ (s.port 0).requests = [] ∧ isAbortOp (.read 0x08 0x0703 1) = false ∧ s.waits = [] := by
  unfold State.QueueLaw
  decide +kernel

theorem witness_EventNotDueChangesNothing_idle :
    live.phase ≠ .inReset ∧ live.phase ≠ .sweeping ∧ (live.port 0).inService = none ∧ live.jobs = [] ∧
      live.relocations = [] ∧ live.timer ≠ some 0 ∧ live.scrub = none ∧
      ∀ c, 1 ≤ c → c ≤ 7 → clientWaits live c = false := by
  refine ⟨by decide +kernel, by decide +kernel, by decide +kernel, by decide +kernel, by decide +kernel, by decide +kernel,
    by decide +kernel, fun c h1 h7 => ?_⟩
  have h : ∀ c : Fin 8, 1 ≤ c.val → clientWaits live c.val = false := by decide +kernel
  exact h ⟨c, by omega⟩ h1

theorem witness_EventNotDueChangesNothing_jobs :
    let relocating : State := { live with jobs := [⟨.relocate 7, 7, 256, .place []⟩] }
    let zeroing : State := { live with jobs := [⟨.zero 0 ⟨0, [1]⟩ .granted, 7, 256, .place []⟩] }
    (∀ job rest, relocating.jobs = job :: rest → job.progress ≠ .place [] ∨ job.isRelocate = true) ∧
      ∀ job rest, zeroing.jobs = job :: rest → job.progress ≠ .place [] ∨ job.isRelocate = false := by
  constructor <;> (rintro job rest ⟨⟩; exact .inr rfl)

theorem witness_EventNotDueChangesNothing_scrub :
    let s : State := { live with scrub := some ⟨5, 63⟩, timer := some 0 }
    (∀ r, s.scrub = some r → r.next < 64) ∧ s.scrub ≠ none ∧ live.timer ≠ some 0 :=
  ⟨by rintro r ⟨⟩; decide, by decide +kernel⟩

/-! ### Frames -/

theorem witness_RequestFrameRoundTrip :
    (RequestOp.write 0x08 0x00C0 0x01 (List.replicate 64 0xAA)).wellFormed = true := by decide

theorem witness_RequestFrameRunsItsRow : (RequestOp.write 0x08 0x00C0 0x01 (List.replicate 64 0xAA)).wellFormed = true ∧
    rowOf 0 ⟨0x11, .poolInfo⟩ = .poolInfo 0 0x11 := by decide

theorem witness_RequestDiscardOrder_notReady :
    (State.reset.port 0).wire = .idle ∧ (State.reset.port 0).ready = false := by decide +kernel

theorem witness_RequestDiscardOrder_truncated :
    (live.port 0).wire = .idle ∧ (live.port 0).ready = true ∧ ([0x09, 0x11] : List Byte).length < 3 ∧
      ([0x09, 0x11, 0x00] : List Byte).length < 4 + (0x00#8).toNat := by decide +kernel

theorem witness_RequestDiscardOrder_length :
    (live.port 0).wire = .idle ∧ (live.port 0).ready = true ∧ parseOp 0x00 [] = none ∧
      4 + (0x00#8).toNat = ([0x00, 0x11, 0x00, 0x00] : List Byte).length ∧ parseOp 0x09 [] = some .poolInfo ∧
      4 + (0x00#8).toNat < ([0x09, 0x11, 0x00, 0x00, 0x00] : List Byte).length := by decide +kernel

theorem witness_RequestDiscardOrder_crc :
    (live.port 0).wire = .idle ∧ (live.port 0).ready = true ∧ parseOp 0x09 [] = some .poolInfo ∧
      ([0x09, 0x11, 0x00, 0x00] : List Byte).length = 4 + (0x00#8).toNat ∧
      ([0x09, 0x11, 0x00, 0x00] : List Byte).getLast? ≠
        some (crc8 ([0x09, 0x11, 0x00, 0x00] : List Byte).dropLast) := by decide +kernel

theorem witness_RequestDiscardOrder_noCredit :
    let s := live.setPort 0 { PortRec.reset with ready := true, credits := 0, responses := List.replicate 4 ⟨0, .done⟩ }
    let sent := encodeRequest ⟨0x11, .poolInfo⟩
    (s.port 0).wire = .idle ∧ (s.port 0).ready = true ∧ (s.port 0).credits = 0 ∧
      sent.length = 4 + (sent.getD 2 0).toNat ∧
      parseOp (sent.getD 0 0) ((sent.drop 3).take (sent.getD 2 0).toNat) = some .poolInfo ∧
      sent.getLast? = some (crc8 sent.dropLast) := by decide +kernel

theorem witness_RequestQueuedBehindService :
    let s := inService (.reading [5] [] [])
    (RequestOp.poolInfo).wellFormed = true ∧ (s.port 0).ready = true ∧ (s.port 0).wire = .idle ∧ 0 < (s.port 0).credits ∧
      (s.port 0).inService ≠ none ∧ s.QueueLaw :=
  ⟨by decide, by decide +kernel, by decide +kernel, by decide +kernel, by decide +kernel, inService_queueLaw _⟩

/-- HP0 holds one response and one notice. -/
def holding : State :=
  live.setPort 0
    { PortRec.reset with
      ready := true, credits := 3, responses := [⟨0x11, .done⟩]
      notices := [⟨.writeFailed 0x08 .noPage, true⟩] }

theorem witness_CompletedFetchAndNote :
    (holding.port 0).wire = .idle ∧ (holding.port 0).responses = [⟨0x11, .done⟩] ∧
      (⟨0x11, .done⟩ : Response).bytes.length = 4 + 1 ∧
      (holding.port 0).notices = [⟨.writeFailed 0x08 .noPage, true⟩] ∧
      (⟨.writeFailed 0x08 .noPage, true⟩ : Notice).bytes.length = 5 + 1 := by decide +kernel

theorem witness_CompletedPstat : (live.port 0).wire = .idle ∧ 10 ≤ (List.replicate 10 (0x00#8)).length := by
  decide +kernel

theorem witness_FramesThatCompleteNothing :
    (holding.port 0).wire = .idle ∧ (List.replicate 3 (0x00#8)).length + 1 < (⟨0x11, .done⟩ : Response).bytes.length ∧
      (List.replicate 4 (0x00#8)).length + 1 < (⟨.writeFailed 0x08 .noPage, true⟩ : Notice).bytes.length ∧
      (List.replicate 9 (0x00#8)).length < 10 ∧ (0xFE#8) ≠ 0xFF#8 ∧ (0x51#8) ∉ knownFrameCodes := by decide +kernel

theorem witness_FrameCodeFixesRecord_fixes :
    let begun := holding.setPort 0 { holding.port 0 with wire := .begun 0xC4 }
    let empty := live.setPort 0 { live.port 0 with wire := .begun 0x84 }
    (begun.port 0).wire = .begun 0xC4 ∧ (begun.port 0).responses = [⟨0x11, .done⟩] ∧
      (begun.port 0).notices = [⟨.writeFailed 0x08 .noPage, true⟩] ∧ (empty.port 0).wire = .begun 0x84 ∧
      (empty.port 0).responses = [] ∧ (empty.port 0).notices = [] ∧ (holding.port 0).wire = .idle ∧
      (0x52#8) ≠ 0x46#8 ∧ (0x52#8) ≠ 0x4E#8 ∧ (0x52#8) ≠ 0x53#8 := by decide +kernel

/-- HP0 holds one response and one notice, and a record is fixed for the frame on its wire. -/
def fixedRecord (code : Byte) (record : List Byte) (held : Bool) : State :=
  holding.setPort 0 { holding.port 0 with wire := .coded 0xC4 code record held }

theorem witness_FrameCodeFixesRecord_releases :
    let response := (⟨0x11, .done⟩ : Response).bytes
    let notice := (⟨.writeFailed 0x08 .noPage, true⟩ : Notice).bytes
    let detail := (holding.port 0).detail
    ((fixedRecord 0x46 response true).port 0).wire = .coded 0xC4 0x46 response true ∧
      ((fixedRecord 0x46 response true).port 0).responses = [⟨0x11, .done⟩] ∧ response.length = 4 + 1 ∧
      ((fixedRecord 0x46 emptyResponse false).port 0).wire = .coded 0xC4 0x46 emptyResponse false ∧
      ((fixedRecord 0x4E notice true).port 0).wire = .coded 0xC4 0x4E notice true ∧
      ((fixedRecord 0x4E notice true).port 0).notices = [⟨.writeFailed 0x08 .noPage, true⟩] ∧ notice.length = 5 + 1 ∧
      ((fixedRecord 0x53 detail true).port 0).wire = .coded 0xC4 0x53 detail true ∧ detail.length = 10 + 1 ∧
      (0xFE#8) ≠ 0xFF#8 := by decide +kernel

theorem witness_FrameCodeFixesRecord_disregarded :
    let s := live.setPort 0 { PortRec.reset with wire := .disregarded }
    (s.port 0).wire = .disregarded ∧ (0x51#8) ∉ knownFrameCodes := by decide +kernel

theorem witness_PortReset :
    ((withSession opened).port 0).wire = .idle ∧ ((withSession opened).port 0).ready = true ∧
      (∀ q, q ≠ 0 → ((withSession opened).port q).requests = []) ∧ ((withSession opened).session 0).port = some 0 ∧
      (State.reset.port 0).wire = .idle ∧ (State.reset.port 0).ready = false := by decide +kernel

/-! ### Sessions -/

theorem witness_OpenCreatesSession_badValue :
    live.PortFree 0 ∧ 4 < (5#8).toNat ∧ 4000 < (4001#16).toNat := ⟨live_free, by decide⟩

/-- Both sessions of HP0's quota are in use. -/
def twoSessions : State := (withSession opened).setSession 7 opened

theorem witness_OpenCreatesSession_quota :
    twoSessions.PortFree 0 ∧ (4#8).toNat ≤ 4 ∧ (4000#16).toNat ≤ 4000 ∧
      ¬ (twoSessions.sessionsOf 0).length < twoSessions.settings.quotas[(0 : PortId)] :=
  ⟨free_of_ports 0 rfl, by decide +kernel⟩

/-- Every slot is in use by HP1, and HP0 may hold sessions. -/
def allSlots : State := { live with sessions := Vector.replicate 8 { opened with port := some 1 } }

theorem witness_OpenCreatesSession_noSession :
    allSlots.PortFree 0 ∧ (allSlots.sessionsOf 0).length < allSlots.settings.quotas[(0 : PortId)] ∧
      ∀ slot, (allSlots.session slot).state ≠ .free :=
  ⟨free_of_ports 0 rfl, by decide +kernel⟩

/-- A session of HP0 in slot 0, a member of the group of tag 1. -/
def grouped (state : GroupState) (member : SessionState) : State :=
  (withSession { opened with group := some 0, state := member }).setGroup 0
    { state := state, members := [0], closer := if state = .closing then some 1 else none }

theorem witness_OpenCreatesSession_groupClosed :
    let s := grouped .closing .opened
    s.PortFree 0 ∧ (s.sessionsOf 0).length < s.settings.quotas[(0 : PortId)] ∧ (s.session 1).state = .free ∧
      (1#8).toNat = (0 : GroupIx).val + 1 ∧ (s.group 0).state = .closing :=
  ⟨free_of_ports 0 rfl, by decide +kernel⟩

theorem witness_OpenCreatesSession_ok :
    let s := grouped .gathering .opened
    s.PortFree 0 ∧ (4#8).toNat ≤ 4 ∧ (4000#16).toNat ≤ 4000 ∧
      (s.sessionsOf 0).length < s.settings.quotas[(0 : PortId)] ∧ (s.session 1).state = .free ∧
      (∀ lower < (1 : Slot), (s.session lower).state ≠ .free) ∧
      (¬ ∃ g : GroupIx, (4#8).toNat = g.val + 1 ∧ (s.group g).state = .closing) ∧ (4#8).toNat = (3 : GroupIx).val + 1 :=
  ⟨free_of_ports 0 rfl, by decide +kernel⟩

theorem witness_HandleChecks_stale :
    live.PortFree 0 ∧ (RequestOp.abort 0x08).wellFormed = true ∧ live.named 0x08 = none ∧ live.named 0x80 = none ∧
      (0x08#8) ≠ 0x80#8 := ⟨live_free, by decide +kernel⟩

theorem witness_HandleChecks_notOwner :
    let s := withSession { opened with port := some 1 }
    s.PortFree 0 ∧ s.named 0x08 = some 0 ∧ (s.session 0).port ≠ some 0 := ⟨session_free _, by decide +kernel⟩

theorem witness_HandleChecks_notOpen :
    let s := withSession { opened with state := .ready }
    s.PortFree 0 ∧ s.named 0x08 = some 0 ∧ (s.session 0).port = some 0 ∧ (s.session 0).state ≠ .opened :=
  ⟨session_free _, by decide +kernel⟩

/-- A session with one page in its shadow list, its frame SHADOW, its claim taken. -/
def shadowing : State :=
  { ((withSession { opened with shadows := [⟨7, 256, false⟩] }).setFrame 256
      { live.frame 256 with state := .shadow, owner := some (.session 0) }).setEntry 7
      { live.entry 7 with claim := some 0 } with
    pool := live.pool.tail }

theorem shadowing_owns : shadowing.Owns 0 0x08 0 := by unfold State.Owns; decide +kernel

theorem witness_AbortEndsSession :
    shadowing.PortFree 0 ∧ shadowing.Owns 0 0x08 0 ∧ (shadowing.session 0).group = none ∧
      (shadowing.session 0).activity = .idle ∧ (∀ j ∈ shadowing.jobs, j.session? ≠ some 0) ∧ shadowing.waits = [] ∧
      shadowing.relocations = [] ∧ ((shadowing.session 0).shadows.map ShadowEntry.frame).Nodup ∧
      (shadowing.session 0).shadows = [⟨7, 256, false⟩] ∧
      ∀ e ∈ (shadowing.session 0).shadows, (shadowing.frame e.frame).state = .shadow ∧
        (shadowing.frame e.frame).pins = 0 ∧ (shadowing.frame e.frame).retireOnRelease = false :=
  ⟨free_of_ports 0 rfl, shadowing_owns, by decide +kernel⟩

/-- As shadowing, and slots of HP1 wait for LP 7 and LP 9; the pool holds the given frames. -/
def awaited (waits : List WaitEntry) (pins : Nat) (pool : List PF) : State :=
  { ((shadowing.setSession 1
        { opened with port := some 1, activity := .parked, parked := some ⟨0x07FE, [1, 2]⟩, waitPage := some 7 }).setSession 2
      { opened with port := some 1, activity := .parked, parked := some ⟨0x0703, [3]⟩, waitPage := some 7 }).setFrame 256
      { shadowing.frame 256 with pins := pins } with
    waits := waits, pool := pool }

theorem awaited_free (waits : List WaitEntry) (pins : Nat) (pool : List PF) : (awaited waits pins pool).PortFree 0 :=
  free_of_ports 0 rfl

theorem witness_AbortEndsSession_grant :
    ∀ pool ∈ [[], [300, 301]],
      let s := awaited [⟨3, 9⟩, ⟨1, 7⟩, ⟨2, 7⟩] 0 pool
      s.Owns 0 0x08 0 ∧ (s.session 0).group = none ∧ (s.session 0).activity = .idle ∧ s.jobs = [] ∧ s.relocations = [] ∧
        (s.session 0).shadows = [⟨7, 256, false⟩] ∧ (s.frame 256).state = .shadow ∧ (s.frame 256).pins = 0 ∧
        (s.frame 256).retireOnRelease = false ∧ s.waits = [⟨3, 9⟩] ++ ⟨1, 7⟩ :: [⟨2, 7⟩] ∧
        (s.session 1).parked = some ⟨0x07FE, [1, 2]⟩ ∧ (s.frame (s.entry 7).frame).state = .mapped ∧
        ∃ pf ∈ s.pool ++ [256], s.pool ++ [256] = pf :: (s.pool ++ [256]).tail ∧ (pf = 256 ∨ (s.frame pf).state = .free) := by
  unfold State.Owns
  decide +kernel

theorem witness_AbortEndsSession_grantFails :
    let s := awaited [⟨3, 9⟩, ⟨1, 7⟩, ⟨2, 7⟩] 1 []
    s.PortFree 0 ∧ s.Owns 0 0x08 0 ∧ (s.session 0).group = none ∧ (s.session 0).activity = .idle ∧ s.jobs = [] ∧
      s.relocations = [] ∧ (s.session 0).shadows = [⟨7, 256, false⟩] ∧ (s.frame 256).state = .shadow ∧
      0 < (s.frame 256).pins ∧ s.pool = [] ∧ (s.waits.map WaitEntry.slot).Nodup ∧ 0 ∉ s.waits.map WaitEntry.slot ∧
      (s.port 1).notices = [] ∧ (s.session 1).port = some 1 ∧ (s.session 2).port = some 1 :=
  ⟨free_of_ports 0 rfl, by unfold State.Owns; decide +kernel⟩

theorem session_owns (r : SessionRec) (h : r.state ≠ .free) (hg : r.generation = 1) (hp : r.port = some 0) :
    (withSession r).Owns 0 0x08 0 := by
  have hs : (withSession r).session 0 = r := by simp [withSession]
  refine ⟨?_, by rw [hs, hp]⟩
  have hn : slotOfHandle 0x08 = 0 := by decide
  simp only [State.named, State.handle, hn, hs, hg]
  rw [if_pos ⟨h, by decide⟩]

/-- Guard entries of n pages. -/
def guardsOf (n : Nat) : List GuardEntry := (List.range n).map fun i => ⟨Fin.ofNat 256 i, 3⟩

theorem witness_GuardRecordsVersion_replaced :
    let s := withSession { opened with guards := guardsOf 16 }
    s.PortFree 0 ∧ s.Owns 0 0x08 0 ∧ (s.session 0).state = .opened ∧
      (s.session 0).guards = [] ++ ⟨0, 3⟩ :: (guardsOf 16).tail ∧
      ∀ other ∈ [] ++ (guardsOf 16).tail, other.page ≠ 0 :=
  ⟨session_free _, session_owns _ (by decide) rfl rfl, by decide +kernel⟩

theorem witness_GuardRecordsVersion_appended :
    let s := withSession { opened with guards := guardsOf 15 }
    s.PortFree 0 ∧ s.Owns 0 0x08 0 ∧ (∀ g ∈ (s.session 0).guards, g.page ≠ 255) ∧ (s.session 0).guards.length = 15 :=
  ⟨session_free _, session_owns _ (by decide) rfl rfl, by decide +kernel⟩

theorem witness_GuardRecordsVersion_limit :
    let s := withSession { opened with guards := guardsOf 16 }
    s.PortFree 0 ∧ s.Owns 0 0x08 0 ∧ (∀ g ∈ (s.session 0).guards, g.page ≠ 255) ∧ (s.session 0).guards.length = 16 :=
  ⟨session_free _, session_owns _ (by decide) rfl rfl, by decide +kernel⟩

/-! ### Reports, watches and settings -/

theorem witness_ReportsChangeNothing : live.PortFree 0 ∧ 7 < (8#8).toNat := ⟨live_free, by decide⟩

/-- HP0 watches n pages. -/
def watching (n : Nat) : State :=
  live.setPort 0 { live.port 0 with watches := (List.range n).map (Fin.ofNat 256) }

theorem watching_free (n : Nat) : (watching n).PortFree 0 := by
  have hself : (watching n).port 0 = { live.port 0 with watches := (List.range n).map (Fin.ofNat 256) } := by
    simp [watching]
  have ho : (watching n).QueueLaw := by
    intro q
    rw [watching, State.setPort_port]
    split
    · rfl
    · exact live_queueLaw q
  exact ⟨hself ▸ live_free.ready, hself ▸ live_free.wire, hself ▸ live_free.credit, hself ▸ live_free.queue,
    hself ▸ live_free.service, ho⟩

theorem witness_WatchAddsPage :
    (watching 16).PortFree 0 ∧ (15 : LP) ∈ ((watching 16).port 0).watches ∧ (255 : LP) ∉ ((watching 16).port 0).watches ∧
      ((watching 16).port 0).watches.length = 16 ∧ (watching 15).PortFree 0 ∧
      (255 : LP) ∉ ((watching 15).port 0).watches ∧ ((watching 15).port 0).watches.length = 15 :=
  ⟨watching_free 16, by decide +kernel, by decide +kernel, by decide +kernel, watching_free 15, by decide +kernel⟩

theorem witness_UnwatchRemovesPage :
    (watching 3).PortFree 0 ∧ ((watching 3).port 0).watches = [0, 1] ++ 2 :: [] ∧ (2 : LP) ∉ [(0 : LP), 1] ∧
      (255 : LP) ∉ ((watching 3).port 0).watches := ⟨watching_free 3, by decide +kernel⟩

theorem witness_GetConfigReportsSettings : live.PortFree 0 := live_free

theorem witness_SetConfigReplacesRecord :
    let high : ConfigRecord := ⟨1000, 15, 4000, #v[8, 8, 8, 8], #v[0xFF, 0, 0, 0]⟩
    live.PortFree 0 ∧ high.scrubPeriod.toNat ≤ 1000 ∧ (1 ≤ high.retireThreshold.toNat ∧ high.retireThreshold.toNat ≤ 15) ∧
      (1 ≤ high.defaultBudget.toNat ∧ high.defaultBudget.toNat ≤ 4000) ∧ (∀ q : PortId, high.quotas[q].toNat ≤ 8) ∧
      (∀ slot, (live.session slot).state = .free) ∧ (withSession opened).PortFree 0 ∧
      ((withSession opened).session 0).state ≠ .free ∧ ¬ (1001#16).toNat ≤ 1000 ∧ ¬ 1 ≤ (0#8).toNat :=
  ⟨live_free, by decide, by decide, by decide, by decide, by decide +kernel, session_free _, by decide +kernel⟩

/-- A fault record with a sequence number. -/
def faultAt (seq : BitVec 16) : FaultRecord := ⟨seq, .corrected, 5, some 0, some 1, some .scrub, some 5, none⟩

theorem witness_LogReadReturnsRecord :
    let s : State := { live with log := [faultAt 0x7FFF, faultAt 0x8000] }
    s.PortFree 0 ∧ (∀ f ∈ s.log, ¬ (f.seq - 0x8001#16).toNat ≤ 32767) ∧ s.log = [] ++ faultAt 0x7FFF :: [faultAt 0x8000] ∧
      ((faultAt 0x7FFF).seq - 0#16).toNat ≤ 32767 ∧ ¬ ((faultAt 0x8000).seq - 0#16).toNat ≤ 32767 :=
  ⟨free_of_ports 0 rfl, by decide +kernel⟩

/-! ### Reads -/

theorem witness_ReadCapturesItsPages_bounds :
    live.PortFree 0 ∧ ((0x80#8) = 0x80#8 ∧ (none : Option Slot) = none) ∧ 256 < (257#16).toNat ∧
      65536 < (0xFFFF#16).toNat + (2#16).toNat ∧ 65536 < (0xFF01#16).toNat + (256#16).toNat := ⟨live_free, by decide⟩

theorem witness_ReadCapturesItsPages_session :
    shadowing.PortFree 0 ∧ (0x08#8) ≠ 0x80#8 ∧ shadowing.Owns 0 0x08 0 ∧ (1#16) ≠ 0 ∧
      (0x07FF#16).toNat % 256 + (1#16).toNat ≤ 256 ∧
      ((shadowing.session 0).shadows.find? fun e => e.page = 7).map ShadowEntry.frame = some 256 :=
  ⟨free_of_ports 0 rfl, by decide, shadowing_owns, by decide +kernel⟩

/-- LP 1 and LP 255 are POISONED. -/
def poisoned : State :=
  (live.setEntry 255 { live.entry 255 with condition := .poisoned }).setEntry 1
    { live.entry 1 with condition := .poisoned }

theorem witness_ReadCapturesItsPages_one :
    live.PortFree 0 ∧ poisoned.PortFree 0 ∧ (256#16) ≠ 0 ∧ (0xFF00#16).toNat % 256 + (256#16).toNat ≤ 256 ∧
      (0xFF00#16).toNat / 256 = 255 ∧ (live.entry 255).condition ≠ .poisoned ∧
      (poisoned.entry 255).condition = .poisoned :=
  ⟨live_free, free_of_ports 0 rfl, by decide +kernel⟩

theorem witness_ReadCapturesItsPages_two :
    live.PortFree 0 ∧ poisoned.PortFree 0 ∧ (256#16).toNat ≤ 256 ∧ 256 < (0x0001#16).toNat % 256 + (256#16).toNat ∧
      (0x0001#16).toNat + (256#16).toNat ≤ 65536 ∧ (0xFEFF#16).toNat + (256#16).toNat ≤ 65536 ∧
      (live.entry 0).condition ≠ .poisoned ∧ (live.entry 1).condition ≠ .poisoned ∧
      (poisoned.entry 0).condition ≠ .poisoned ∧ (poisoned.entry 1).condition = .poisoned :=
  ⟨live_free, free_of_ports 0 rfl, by decide +kernel⟩

theorem witness_ReadAndPlacementEnd :
    (inService (.reading [5] [] [0xAB])).Quiet ∧ ((inService (.reading [5] [] [0xAB])).port 0).requests = [] ∧
      ((inService (.reading [5] [] [0xAB])).frame 5).state = .mapped ∧
      (inService (.placing 300 ⟨3, [0xAA]⟩ [] true)).QueueLaw ∧
      ((inService (.placing 300 ⟨3, [0xAA]⟩ [] true)).port 0).requests = [] :=
  ⟨quiet_of_inService rfl rfl, by decide +kernel, by decide +kernel, inService_queueLaw _, by decide +kernel⟩

/-- HP0's READ of two pages is at its end; the first frame stays MAPPED, the second has left its page. -/
def readHeld (pins : Nat) (flagged : Bool) : State :=
  ((inService (.reading [5, 6] [] [0xAB])).setFrame 5 { live.frame 5 with pins := 1 }).setFrame 6
    { live.frame 6 with state := .held, owner := none, pins := pins, retireOnRelease := flagged }

theorem witness_ReadAndPlacementEnd_two :
    (readHeld 1 false).QueueLaw ∧ ((readHeld 1 false).port 0).requests = [] ∧ (readHeld 1 false).relocations = [] ∧
      (5 : PF) ≠ 6 ∧ ((readHeld 1 false).frame 5).state = .mapped ∧ ((readHeld 1 false).frame 6).state = .held ∧
      ((readHeld 1 false).frame 6).pins = 1 ∧ ((readHeld 1 false).frame 6).retireOnRelease = false := by
  unfold State.QueueLaw
  decide +kernel

theorem witness_ReadAndPlacementEnd_held :
    ∀ pins ∈ [1, 2], ∀ flagged,
      let s := (inService (.reading [6] [] [0xAB])).setFrame 6
        { live.frame 6 with state := .held, owner := none, pins := pins, retireOnRelease := flagged }
      (∀ p, (s.port p).waiting = false) ∧ (s.port 0).requests = [] ∧ s.relocations = [] ∧ (s.frame 6).state = .held ∧
        (s.frame 6).pins = pins ∧ (s.frame 6).retireOnRelease = flagged ∧
        ∀ q : PortId, s.settings.faultNotices[q] = false := by decide +kernel

/-! ### Writes -/

/-- Shadow entries of n pages from LP 100 upward. -/
def shadowsOf (n : Nat) : List ShadowEntry := (List.range n).map fun i => ⟨Fin.ofNat 256 (i + 100), Fin.ofNat 512 (i + 300), false⟩

theorem witness_WriteRefusals_bounds :
    (withSession opened).PortFree 0 ∧ (withSession opened).Owns 0 0x08 0 ∧ ((withSession opened).session 0).state = .opened ∧
      (List.replicate 64 (0xAA#8)).length ≤ 64 ∧
      ¬ ((0x00C1#16).toNat % 256 + (List.replicate 64 (0xAA#8)).length ≤ 256) :=
  ⟨session_free _, session_owns _ (by decide) rfl rfl, by decide +kernel⟩

theorem witness_WriteRefusals_busy :
    let s := withSession { opened with activity := .copying }
    s.PortFree 0 ∧ s.Owns 0 0x08 0 ∧ (s.session 0).state = .opened ∧ (s.session 0).activity ≠ .idle ∧
      (0x00C0#16).toNat % 256 + (List.replicate 64 (0xAA#8)).length ≤ 256 :=
  ⟨session_free _, session_owns _ (by decide) rfl rfl, by decide +kernel⟩

theorem witness_WriteRefusals_limit :
    let s := withSession { opened with shadows := shadowsOf 32 }
    s.PortFree 0 ∧ s.Owns 0 0x08 0 ∧ (s.session 0).activity = .idle ∧ (∀ e ∈ (s.session 0).shadows, e.page ≠ 7) ∧
      (s.session 0).shadows.length = 32 :=
  ⟨session_free _, session_owns _ (by decide) rfl rfl, by decide +kernel⟩

/-- Slot 1, a session of HP1, holds the claim of LP 7; slot 0 has 31 pages in its shadow list. -/
def contested : State :=
  ((withSession { opened with shadows := shadowsOf 31 }).setSession 1
    { opened with port := some 1, shadows := [⟨7, 256, false⟩] }).setEntry 7 { live.entry 7 with claim := some 1 }

theorem contested_owns : contested.Owns 0 0x08 0 := by unfold State.Owns; decide +kernel

theorem witness_WriteRefusals_conflict :
    contested.PortFree 0 ∧ contested.Owns 0 0x08 0 ∧ (contested.session 0).state = .opened ∧
      (contested.session 0).activity = .idle ∧ (∀ e ∈ (contested.session 0).shadows, e.page ≠ 7) ∧
      (contested.session 0).shadows.length = 31 ∧ (contested.entry 7).claim = some 1 ∧ (0xFE#8).getLsbD 0 = false :=
  ⟨free_of_ports 0 rfl, contested_owns, by decide +kernel⟩

theorem witness_WriteRefusals_noPage :
    let s : State := { withSession { opened with shadows := shadowsOf 31 } with pool := [] }
    s.PortFree 0 ∧ s.Owns 0 0x08 0 ∧ (s.session 0).state = .opened ∧ (s.session 0).activity = .idle ∧
      (∀ e ∈ (s.session 0).shadows, e.page ≠ 7) ∧ (s.session 0).shadows.length = 31 ∧ (s.entry 7).claim = none ∧
      s.pool = [] := ⟨free_of_ports 0 rfl, by unfold State.Owns; decide +kernel, by decide +kernel⟩

theorem witness_WriteTakesItsPath_shadowed :
    shadowing.PortFree 0 ∧ shadowing.Owns 0 0x08 0 ∧ (shadowing.session 0).state = .opened ∧
      (shadowing.session 0).activity = .idle ∧ (shadowing.session 0).shadows = [] ++ ⟨7, 256, false⟩ :: [] ∧
      (0x07C0#16).toNat / 256 = 7 := ⟨free_of_ports 0 rfl, shadowing_owns, by decide +kernel⟩

theorem witness_WriteTakesItsPath_first :
    let s := withSession { opened with shadows := shadowsOf 31 }
    let t := s.setEntry 7 { s.entry 7 with condition := .poisoned }
    s.PortFree 0 ∧ s.Owns 0 0x08 0 ∧ (s.session 0).state = .opened ∧ (s.session 0).activity = .idle ∧
      (∀ e ∈ (s.session 0).shadows, e.page ≠ 7) ∧ (s.session 0).shadows.length < 32 ∧ (s.entry 7).claim = none ∧
      s.pool = 256 :: s.pool.tail ∧ (s.entry 7).frame ≠ 256 ∧ (s.entry 7).condition = .normal ∧
      (t.entry 7).condition = .poisoned ∧ (t.entry 7).claim = none ∧ t.session 0 = s.session 0 ∧ t.pool = s.pool :=
  ⟨session_free _, session_owns _ (by decide) rfl rfl, by decide +kernel⟩

theorem witness_WriteParksOrDeadlocks_parks :
    contested.PortFree 0 ∧ contested.Owns 0 0x08 0 ∧ (0x01#8).getLsbD 0 = true ∧ (contested.entry 7).claim = some 1 ∧
      ¬ Relation.ReflTransGen contested.WaitsFor 1 0 := by
  refine ⟨free_of_ports 0 rfl, contested_owns, by decide, by decide +kernel, fun h => ?_⟩
  rcases h.cases_head with h | ⟨_, h, _⟩
  · exact absurd h (by decide)
  · exact absurd h.1 (by decide +kernel)

/-- As contested, and slot 1 waits in its turn for a page that slot 0 holds. -/
def circular : State :=
  (contested.setSession 1 { contested.session 1 with activity := .parked, waitPage := some 100 }).setEntry 100
    { contested.entry 100 with claim := some 0 }

theorem witness_WriteParksOrDeadlocks_deadlocks :
    circular.PortFree 0 ∧ circular.Owns 0 0x08 0 ∧ (circular.session 0).activity = .idle ∧
      (circular.entry 7).claim = some 1 ∧ Relation.ReflTransGen circular.WaitsFor 1 0 :=
  ⟨free_of_ports 0 rfl, by unfold State.Owns; decide +kernel, by decide +kernel, by decide +kernel,
    .single ⟨by decide +kernel, 100, by decide +kernel, by decide +kernel⟩⟩

/-! ### Commit and groups -/

theorem witness_CommitAppliesSession :
    shadowing.PortFree 0 ∧ shadowing.Owns 0 0x08 0 ∧ (shadowing.session 0).state = .opened ∧
      (shadowing.session 0).activity = .idle ∧ (shadowing.session 0).group = none ∧
      (∀ g ∈ (shadowing.session 0).guards, (shadowing.entry g.page).version = g.version) ∧
      ((shadowing.session 0).shadows.map ShadowEntry.page).Nodup :=
  ⟨free_of_ports 0 rfl, shadowing_owns, by decide +kernel⟩

/-- As shadowing, and LP 7 is relocating from PF 7 to PF 300. -/
def shadowRelocating : State :=
  { (((shadowing.setFrame 7 { live.frame 7 with pins := 1 }).setFrame 300
        { live.frame 300 with state := .moving, owner := some (.page 7) }).setEntry 7
      { shadowing.entry 7 with relocating := true }) with
    jobs := [⟨.relocate 7, 7, 300, .fillRead 63⟩] }

theorem witness_CommitAppliesSession_relocating :
    let s := shadowRelocating
    s.PortFree 0 ∧ s.Owns 0 0x08 0 ∧ (s.session 0).state = .opened ∧ (s.session 0).activity = .idle ∧
      (s.session 0).group = none ∧ (s.session 0).guards = [] ∧ (s.session 0).shadows = [⟨7, 256, false⟩] ∧
      (s.entry 7).relocating = true ∧ s.jobs = [] ++ ⟨.relocate (s.entry 7).frame, 7, 300, .fillRead 63⟩ :: [] ∧
      (s.frame 7).state = .mapped ∧ (s.frame 7).pins = 1 ∧ (s.frame 7).retireOnRelease = false ∧
      (s.frame 300).state = .moving ∧ (s.frame 300).pins = 0 ∧ (s.frame 300).retireOnRelease = false ∧
      (s.frame 256).state = .shadow ∧ s.waits = [] ∧ s.relocations = [] ∧ (shadowing.entry 7).relocating = false :=
  ⟨free_of_ports 0 rfl, by unfold State.Owns; decide +kernel, by decide +kernel⟩

theorem witness_ApplyTellsWatchers :
    shadowing.PortFree 0 ∧ shadowing.Owns 0 0x08 0 ∧ (shadowing.session 0).state = .opened ∧
      (shadowing.session 0).activity = .idle ∧ (shadowing.session 0).group = none ∧ (shadowing.session 0).guards = [] ∧
      (shadowing.session 0).shadows = [⟨7, 256, false⟩] ∧ shadowing.waits = [] ∧
      (∀ q : PortId, shadowing.settings.faultNotices[q] = false) ∧ (7 : LP) ∉ (shadowing.port 1).watches :=
  ⟨free_of_ports 0 rfl, shadowing_owns, by decide +kernel⟩

/-- HP1 watches LP 7 and holds n notices. -/
def watched (n : Nat) : State :=
  shadowing.setPort 1
    { shadowing.port 1 with watches := [7], notices := List.replicate n ⟨.fault 0 .corrected, false⟩, overrun := true }

theorem witness_ApplyTellsWatchers_watching :
    (∀ p, ((watched 7).port p).waiting = false) ∧ (watched 7).port 0 = live.port 0 ∧
      (watched 7).session 0 = shadowing.session 0 ∧ (7 : LP) ∈ ((watched 7).port 1).watches ∧
      ((watched 7).port 1).notices.length = 7 ∧ ((watched 8).port 1).notices.length = 8 := by decide +kernel

theorem witness_CommitRefusedOrAborted :
    let busy := withSession { opened with activity := .parked }
    let failing := withSession { opened with guards := [⟨6, 0⟩, ⟨7, 1⟩] }
    busy.PortFree 0 ∧ busy.Owns 0 0x08 0 ∧ (busy.session 0).activity ≠ .idle ∧ failing.PortFree 0 ∧
      failing.Owns 0 0x08 0 ∧ (failing.session 0).group = none ∧
      (failing.session 0).guards = [⟨6, 0⟩] ++ ⟨7, 1⟩ :: [] ∧ (failing.entry 6).version = 0 ∧
      (failing.entry 7).version ≠ 1 :=
  ⟨session_free _, session_owns _ (by decide) rfl rfl, by decide +kernel, session_free _,
    session_owns _ (by decide) rfl rfl, by decide +kernel⟩

theorem witness_CommitMakesMemberReady :
    let s := grouped .gathering .opened
    s.PortFree 0 ∧ s.Owns 0 0x08 0 ∧ (s.session 0).state = .opened ∧ (s.session 0).activity = .idle ∧
      (s.session 0).group = some 0 ∧ (s.group 0).state ≠ .closing :=
  ⟨free_of_ports 0 rfl, by unfold State.Owns; decide +kernel, by decide +kernel⟩

/-- Slot 0 of HP0 is the last member, not READY yet, of a group that HP1 has closed; slot 1, its other member, is HP1's. HP1
holds six notices. -/
def resolving (guards : List GuardEntry) : State :=
  (((grouped .closing .opened).setSession 1
      { opened with port := some 1, group := some 0, state := .ready, shadows := [⟨7, 256, false⟩], guards := guards }).setGroup 0
    { state := .closing, members := [0, 1], closer := some 1 }).setPort 1
    { live.port 1 with notices := List.replicate 6 ⟨.fault 0 .corrected, false⟩ }

theorem resolving_free (guards : List GuardEntry) : (resolving guards).PortFree 0 := by
  have hself : (resolving guards).port 0 = live.port 0 := by rw [resolving, State.setPort_port, if_neg (by decide)]; rfl
  have ho : (resolving guards).QueueLaw := by
    intro q
    rw [resolving, State.setPort_port]
    split
    · rfl
    · exact live_queueLaw q
  exact ⟨hself ▸ live_free.ready, hself ▸ live_free.wire, hself ▸ live_free.credit, hself ▸ live_free.queue,
    hself ▸ live_free.service, ho⟩

theorem witness_CommitMakesMemberReady_applies :
    let s := resolving [⟨6, 0⟩, ⟨7, 0⟩]
    s.PortFree 0 ∧ s.Owns 0 0x08 0 ∧ (s.session 0).state = .opened ∧ (s.session 0).activity = .idle ∧
      (s.session 0).group = some 0 ∧ (s.group 0).state = .closing ∧ (s.group 0).closer = some 1 ∧
      (s.group 0).members = [0, 1] ∧ (∀ m ∈ (s.group 0).members, m ≠ 0 → (s.session m).state = .ready) ∧
      (∀ m ∈ (s.group 0).members, ∀ e ∈ (s.session m).guards, (s.entry e.page).version = e.version) ∧
      (((s.group 0).members.flatMap fun m => (s.session m).shadows).map ShadowEntry.page).Nodup ∧
      (s.group 0).members.Nodup ∧ s.waits = [] ∧ (∀ q : PortId, s.settings.faultNotices[q] = false) ∧
      (∀ q, (s.port q).watches = []) ∧
      (s.port 1).notices.length + ((s.group 0).members.filter fun m => decide ((s.session m).port = some 1)).length + 1 = 8 :=
  ⟨resolving_free _, by unfold State.Owns; decide +kernel, by decide +kernel⟩

theorem witness_CommitMakesMemberReady_aborts :
    let s := resolving [⟨6, 0⟩, ⟨7, 1⟩]
    s.PortFree 0 ∧ s.Owns 0 0x08 0 ∧ (s.session 0).state = .opened ∧ (s.session 0).activity = .idle ∧
      (s.session 0).group = some 0 ∧ (s.group 0).state = .closing ∧ (s.group 0).closer = some 1 ∧
      (∀ m ∈ (s.group 0).members, m ≠ 0 → (s.session m).state = .ready) ∧ (s.group 0).members = [0] ++ 1 :: [] ∧
      (∀ x ∈ (s.group 0).members, (s.session x).group = some 0 ∧ (s.session x).state ≠ .free) ∧ (s.session 0).guards = [] ∧
      (s.session 1).guards = [⟨6, 0⟩] ++ ⟨7, 1⟩ :: [] ∧ (s.entry 6).version = 0 ∧ (s.entry 7).version ≠ 1 ∧
      ∀ q, (s.port q).inService = none :=
  ⟨resolving_free _, by unfold State.Owns; decide +kernel, by decide +kernel⟩

theorem witness_CloseCases :
    live.PortFree 0 ∧ (0#8) = 0 ∧ 4 < (5#8).toNat ∧ (4#8).toNat = (3 : GroupIx).val + 1 ∧ (live.group 3).state = .idle ∧
      (grouped .closing .opened).PortFree 0 ∧ ((grouped .closing .opened).group 0).state = .closing ∧
      (grouped .gathering .opened).PortFree 0 ∧ ((grouped .gathering .opened).group 0).state = .gathering ∧
      ∃ m ∈ ((grouped .gathering .opened).group 0).members, ((grouped .gathering .opened).session m).state ≠ .ready :=
  ⟨live_free, by decide, by decide, by decide, by decide +kernel, free_of_ports 0 rfl, by decide +kernel,
    free_of_ports 0 rfl, by decide +kernel⟩

theorem witness_CloseAppliesGroup :
    let s := (grouped .gathering .ready).setSession 0
      { opened with group := some 0, state := .ready, shadows := [⟨7, 256, false⟩], guards := [⟨7, 0⟩] }
    s.PortFree 0 ∧ (1#8).toNat = (0 : GroupIx).val + 1 ∧ (s.group 0).state = .gathering ∧
      (∀ m ∈ (s.group 0).members, (s.session m).state = .ready) ∧
      (∀ m ∈ (s.group 0).members, ∀ e ∈ (s.session m).guards, (s.entry e.page).version = e.version) ∧
      (((s.group 0).members.flatMap fun m => (s.session m).shadows).map ShadowEntry.page).Nodup :=
  ⟨free_of_ports 0 rfl, by decide +kernel⟩

theorem witness_GroupAbortsWhole :
    let s := (grouped .gathering .ready).setSession 0
      { opened with group := some 0, state := .ready, guards := [⟨6, 0⟩, ⟨7, 1⟩] }
    s.PortFree 0 ∧ s.NoneQueued ∧
      (∀ m ∈ (s.group 0).members, (s.session m).group = some 0 ∧ (s.session m).state ≠ .free) ∧ s.Owns 0 0x08 0 ∧
      (s.group 0).members = [] ++ 0 :: [] ∧ (1#8).toNat = (0 : GroupIx).val + 1 ∧
      (s.session 0).guards = [⟨6, 0⟩] ++ ⟨7, 1⟩ :: [] ∧ (s.entry 6).version = 0 ∧ (s.entry 7).version ≠ 1 :=
  ⟨free_of_ports 0 rfl, noneQueued_of_ports rfl, by decide +kernel, by unfold State.Owns; decide +kernel,
    by decide +kernel⟩

/-! ### The store, the Check Unit and the Copy Unit -/

theorem witness_ArbiterFollowsRing : clientWaits oneBit 6 = true ∧ oneBit.lastGranted = 7 := by decide +kernel

theorem witness_CheckCodeCorrectsOneDetectsTwo : (0 : Fin 39) ≠ 38 := by decide

/-- HP0 reads bytes 3 of word 0 of PF 5. -/
def readingWord : State := inService (.reading [5] [⟨5, 5, 0, 3, 3⟩] [])

theorem witness_CleanWordMovesOn_read :
    readingWord.Quiet ∧ nextClient readingWord = some ((0 : PortId).val + 1) ∧
      (readingWord.word 5 0).decode = .clean 0 := ⟨quiet_of_inService rfl rfl, by decide +kernel⟩

/-- A COPY job of slot 0 at an access. -/
def copyingAt (progress : Progress) : State := { live with jobs := [⟨.copy 0 7 ⟨3, [0xAA]⟩ .inService, 7, 256, progress⟩] }

theorem witness_CleanWordMovesOn_fill :
    (copyingAt (.fillRead 63)).Quiet ∧ nextClient (copyingAt (.fillRead 63)) = some 5 ∧
      ((copyingAt (.fillRead 63)).word 7 63).decode = .clean 0 ∧ (copyingAt (.fillWrite 63 9)).Quiet ∧
      nextClient (copyingAt (.fillWrite 63 9)) = some 5 ∧ (copyingAt (.fillWrite 0 9)).Quiet ∧
      nextClient (copyingAt (.fillWrite 0 9)) = some 5 :=
  ⟨quiet_of_ports rfl rfl, by decide +kernel, by decide +kernel, quiet_of_ports rfl rfl, by decide +kernel,
    quiet_of_ports rfl rfl, by decide +kernel⟩

theorem witness_CorrectableWordIsRecorded :
    oneBit.Quiet ∧ nextClient oneBit = some 6 ∧ oneBit.scrub = some ⟨5, (0 : WordIx).val⟩ ∧
      (oneBit.word 5 0).decode = .correctable 0 ∧ ∀ p : PortId, oneBit.settings.faultNotices[p] = false :=
  ⟨quiet_of_ports rfl rfl, by decide +kernel⟩

theorem witness_UncorrectableMappedWordPoisons_scrub :
    let s : State := { twoBits with relocations := [5] }
    s.QueueLaw ∧ nextClient s = some 6 ∧ (s.word 5 0).decode = .uncorrectable ∧ (s.frame 5).state = .mapped ∧
      (s.frame 5).owner = some (.page 5) ∧ (s.entry 5).relocating = false ∧ (∀ x ∈ s.relocations, x = 5) ∧
      ∀ p : PortId, s.settings.faultNotices[p] = false :=
  ⟨(free_of_ports 0 rfl).others, by decide +kernel⟩

theorem witness_UncorrectableMappedWordPoisons_read :
    let s : State := { readingWord with store := [(320, ⟨0, 3⟩)] }
    s.QueueLaw ∧ nextClient s = some ((0 : PortId).val + 1) ∧ (s.port 0).requests = [] ∧
      (s.word 5 0).decode = .uncorrectable ∧ (s.frame 5).state = .mapped ∧ (s.frame 5).owner = some (.page 5) ∧
      (s.entry 5).relocating = false ∧ s.relocations = [] ∧ ∀ p : PortId, s.settings.faultNotices[p] = false :=
  ⟨queueLaw_of_inService rfl, by decide +kernel⟩

/-- LP 7 is relocating from PF 7, which has two wrong check bits in its last word, to PF 300. -/
def relocatingBad (s : State) (job : Progress) : State :=
  { ((s.setFrame 7 { live.frame 7 with pins := 2 }).setFrame 300
        { live.frame 300 with state := .moving, owner := some (.page 7) }).setEntry 7 { live.entry 7 with relocating := true } with
    store := [(511, ⟨0, 3⟩)], jobs := [⟨.relocate 7, 7, 300, job⟩] }

theorem witness_UncorrectableMappedWordPoisons_relocating :
    let s := relocatingBad live (.fillRead 63)
    s.QueueLaw ∧ (s.frame 7).state = .mapped ∧ (s.frame 7).owner = some (.page 7) ∧ (s.entry 7).relocating = true ∧
      (s.frame 300).state = .moving ∧ (s.frame 300).pins = 0 ∧ (s.frame 300).retireOnRelease = false ∧
      s.relocations = [] ∧ (∀ q : PortId, s.settings.faultNotices[q] = false) ∧ nextClient s = some 5 ∧
      (s.word 7 63).decode = .uncorrectable :=
  ⟨(free_of_ports 0 rfl).others, by decide +kernel⟩

theorem witness_UncorrectableMappedWordPoisons_relocatingRead :
    let s := relocatingBad (inService (.reading [7] [⟨7, 7, 63, 0, 3⟩] [])) (.fillRead 0)
    s.QueueLaw ∧ (s.frame 7).state = .mapped ∧ (s.frame 7).owner = some (.page 7) ∧ (s.entry 7).relocating = true ∧
      (s.frame 300).state = .moving ∧ (s.frame 300).pins = 0 ∧ (s.frame 300).retireOnRelease = false ∧
      s.relocations = [] ∧ (∀ q : PortId, s.settings.faultNotices[q] = false) ∧
      nextClient s = some ((0 : PortId).val + 1) ∧ (s.port 0).requests = [] ∧ (s.word 7 63).decode = .uncorrectable :=
  ⟨queueLaw_of_inService rfl, by decide +kernel⟩

/-- HP0's READ naming slot 0 is at a word of the session's shadow frame, PF 256, that two check bits are wrong in. -/
def readingShadow : State :=
  { (live.setPort 0
      { PortRec.reset with
        ready := true, credits := 3
        inService := some ⟨⟨0x11, .read 0x08 0x0703 1⟩, some 0, .reading [256] [⟨7, 256, 0, 3, 3⟩] []⟩ }).setSession 0
      { opened with shadows := [⟨7, 256, false⟩] } with
    frames := shadowing.frames, map := shadowing.map, pool := shadowing.pool, store := [(16384, ⟨0, 3⟩)] }

theorem witness_UncorrectableShadowWordAborts :
    readingShadow.QueueLaw ∧ nextClient readingShadow = some ((0 : PortId).val + 1) ∧
      (readingShadow.port 0).requests = [] ∧ isAbortOp (.read 0x08 0x0703 1) = false ∧
      (readingShadow.session 0).state ≠ .free ∧ (readingShadow.session 0).port = some 0 ∧
      (readingShadow.session 0).group = none ∧ (readingShadow.session 0).shadows = [] ++ ⟨7, 256, false⟩ :: [] ∧
      (readingShadow.word 256 0).decode = .uncorrectable ∧ (readingShadow.frame 256).state = .shadow ∧
      (readingShadow.frame 256).owner = some (.session 0) := by
  refine ⟨?_, by decide +kernel⟩
  unfold State.QueueLaw
  decide +kernel

/-- One write-back waits, for word 0 of PF 5. -/
def writingBack : State := { oneBit with scrub := none, writeBacks := [⟨5, 0, 1, 0⟩] }

theorem witness_WriteBackComparesFirst :
    writingBack.Quiet ∧ nextClient writingBack = some 7 ∧ (writingBack.frame 5).state ≠ .retired ∧
      (writingBack.word 5 0).diff = 1 ∧ (writingBack.word 5 0).decode = .correctable 0 ∧
      ({ writingBack with store := [] }.word 5 0).diff ≠ 1 := ⟨quiet_of_ports rfl rfl, by decide +kernel⟩

theorem witness_PlacementWritesTheSpan :
    let s := inService (.placing 300 ⟨3, [0xAA]⟩ [0] false)
    s.Quiet ∧ s.StoreLaw ∧ nextClient s = some ((0 : PortId).val + 1) ∧ (s.word 300 0).decode = .clean 0 :=
  ⟨quiet_of_inService rfl rfl, by unfold State.StoreLaw; decide +kernel, by decide +kernel⟩

theorem witness_JobCompletionReports_response :
    let s := jobEnded (.copy 0 7 ⟨3, [0xAA]⟩ .inService)
    s.relocations = [] ∧ s.QueueLaw ∧ (s.port 0).requests = [] ∧ (s.session 0).port = some 0 ∧
      (s.frame 7).state = .mapped ∧
      (s.port 0).inService = some ⟨⟨0x11, .write 0x08 0x0003 0x00 [0xAA]⟩, none, .copying⟩ :=
  ⟨by decide +kernel, queueLaw_of_inService rfl, by decide +kernel⟩

/-- The device with a granted write's job at its end, HP0 holding n notices. -/
def grantEnded (n : Nat) : State :=
  { (live.setPort 0 { live.port 0 with notices := List.replicate n ⟨.fault 0 .corrected, false⟩ }).setSession 0
      { opened with activity := .copying, shadows := [⟨7, 256, false⟩] } with
    jobs := [⟨.copy 0 7 ⟨3, [0xAA]⟩ .granted, 7, 256, .place []⟩] }

theorem witness_JobCompletionReports_notice :
    (grantEnded 7).relocations = [] ∧ (∀ p, ((grantEnded 7).port p).waiting = false) ∧
      ((grantEnded 7).port 0).requests = [] ∧ ((grantEnded 7).session 0).port = some 0 ∧
      ((grantEnded 7).frame 7).state = .mapped ∧ ((grantEnded 7).port 0).notices.length = 7 ∧
      (∀ p, ((grantEnded 8).port p).waiting = false) ∧ ((grantEnded 8).port 0).notices.length = 8 := by
  decide +kernel

/-! ### Relocation and scrubbing -/

theorem witness_RelocationStartTakesHead :
    let s : State := { live with relocations := [9, 8] }
    s.relocations = 9 :: [8] ∧ (∀ j ∈ s.jobs, j.isRelocate = false) ∧ s.pool = 256 :: s.pool.tail ∧ s.scrub = none ∧
      (s.entry 9).frame ≠ 256 := by decide +kernel

theorem witness_RelocationStartTakesHead_waits :
    let busy : State := { relocated with relocations := [9] }
    let empty : State := { live with relocations := [9], pool := [] }
    let scrubbing : State := { live with relocations := [9], scrub := some ⟨9, 0⟩ }
    (∃ j ∈ busy.jobs, j.isRelocate = true) ∧ empty.pool = [] ∧ ∃ k, scrubbing.scrub = some ⟨(scrubbing.entry 9).frame, k⟩ :=
  ⟨⟨_, .head _, rfl⟩, rfl, 0, by decide +kernel⟩

theorem witness_RelocationSwitchMapsTarget :
    relocated.jobs = ⟨.relocate 7, 7, 256, .place []⟩ :: [] ∧ relocated.relocations = [] ∧ relocated.QueueLaw ∧
      (7 : PF) ≠ 256 ∧ (relocated.frame 7).state = .mapped ∧ (relocated.frame 7).owner = some (.page 7) ∧
      (relocated.frame 7).pins = 1 ∧ (relocated.frame 256).state = .moving ∧
      ∀ p : PortId, relocated.settings.faultNotices[p] = false :=
  ⟨rfl, rfl, (free_of_ports (s := relocated) 0 rfl).others, by decide +kernel⟩

theorem witness_ScrubVisitTakesNextFrame :
    let s : State := { live with timer := some 1, cursor := 511 }
    s.scrub = none ∧ (∀ i < 1, scrubEligible s (s.cursor + Fin.ofNat 512 i) = false) ∧
      (0 : PF) = s.cursor + Fin.ofNat 512 1 ∧ scrubEligible s 0 = true ∧ (∀ slot, (s.session slot).state = .free) ∧
      s.relocations = [] ∧ s.QueueLaw ∧ ({ s with timer := some 0 } : State).timer = some 0 :=
  ⟨by decide +kernel, by decide +kernel, by decide +kernel, by decide +kernel, by decide +kernel, rfl,
    (free_of_ports 0 rfl).others, rfl⟩

theorem witness_ScrubReadEndExamines :
    scrubbed.scrub = some ⟨5, 64⟩ ∧ scrubbed.pool = [] ∧ scrubbed.QueueLaw ∧ (scrubbed.frame 5).state = .mapped ∧
      (scrubbed.frame 5).owner = some (.page 5) ∧ scrubbed.settings.retireThreshold = (scrubbed.frame 5).corrected :=
  ⟨rfl, rfl, (free_of_ports (s := scrubbed) 0 rfl).others, by decide +kernel⟩

theorem witness_ScrubReadEndExamines_shadow :
    let s := scrubbed.setFrame 5 { scrubbed.frame 5 with state := .shadow, owner := some (.session 0) }
    s.scrub = some ⟨5, 64⟩ ∧ s.pool = [] ∧ (∀ p, (s.port p).waiting = false) ∧ (s.frame 5).state = .shadow := by
  decide +kernel

/-! ### What every step keeps

The device in service, with a session that ticks, meets every law, and a step of it answers a next state. -/

/-- The table of n records made from f holds f i at place i. -/
theorem tableOf_get {α : Type} (n : Nat) (f : Fin n → α) (i : Fin n) : (tableOf n f)[i] = f i := by
  simp [tableOf]

/-- The pool after a device reset holds the frames from PF 256 on. -/
theorem mem_poolReset (pf : PF) : pf ∈ poolReset ↔ 256 ≤ pf.val := by
  simp only [poolReset, List.mem_map, List.mem_finRange, true_and]
  constructor
  · rintro ⟨a, rfl⟩
    simp
  · intro h
    exact ⟨⟨pf.val - 256, by omega⟩, Fin.ext (by simp; omega)⟩

theorem live_frame (pf : PF) : live.frame pf = FrameRec.reset pf := tableOf_get 512 _ pf

theorem live_poolLaw : live.PoolLaw := by
  refine ⟨(List.nodup_finRange 256).map (Fin.natAdd_injective _ 256), fun pf => (mem_poolReset pf).trans ?_⟩
  rw [live_frame, FrameRec.reset]
  split <;> simp <;> omega

/-- The device in service, with a tick to come. -/
def ticking : State := { live with pending := [.tick] }

theorem witness_StepKeepsCreditsAndQueues : ticking.CreditLaw ∧ ticking.QueueLaw :=
  ⟨by unfold State.CreditLaw PortRec.CreditLaw; decide +kernel, (free_of_ports 0 rfl).others⟩

theorem witness_StepKeepsAttn : ticking.AttnLaw := by unfold State.AttnLaw; decide +kernel

theorem witness_StepKeepsPool : ticking.PoolLaw := live_poolLaw

theorem witness_StepKeepsFaultLog : ticking.LogLaw := by unfold State.LogLaw; decide +kernel

theorem witness_StepKeepsBounds : ticking.NoticeLaw ∧ ticking.WatchLaw ∧ ticking.ListLaw ∧ ticking.CountLaw ∧ ticking.StoreLaw := by
  refine ⟨?_, ?_, ?_, fun pf => ?_, ?_⟩
  · unfold State.NoticeLaw
    decide +kernel
  · unfold State.WatchLaw
    decide +kernel
  · unfold State.ListLaw
    decide +kernel
  · rw [show ticking.frame pf = FrameRec.reset pf from live_frame pf, FrameRec.reset]
    split <;> simp
  · unfold State.StoreLaw
    decide +kernel

theorem witness_StepKeepsSessionsAndGroups : ticking.SettingsLaw ∧ ticking.QuotaLaw ∧ ticking.GroupLaw := by
  unfold State.SettingsLaw State.QuotaLaw State.GroupLaw
  decide +kernel

theorem shadowing_frame (pf : PF) : shadowing.frame pf =
    if pf = 256 then { live.frame 256 with state := .shadow, owner := some (.session 0) } else live.frame pf := by
  simp only [shadowing, withSession, State.frame, State.setEntry, State.setFrame, State.setSession]
  simp [Vector.getElem_set, eq_comm, Fin.ext_iff]

theorem shadowing_poolLaw : shadowing.PoolLaw := by
  have hpool : live.pool = 256 :: shadowing.pool := rfl
  have hn := live_poolLaw.1
  rw [hpool] at hn
  refine ⟨(List.nodup_cons.mp hn).2, fun pf => ?_⟩
  rw [shadowing_frame]
  split
  · next h => simpa [h] using (List.nodup_cons.mp hn).1
  · next h => rw [← live_poolLaw.2 pf, hpool, List.mem_cons, or_iff_right h]

theorem shadowing_entry (page : LP) :
    shadowing.entry page = { MapEntry.reset page with claim := if page = 7 then some 0 else none } := by
  have hl : ∀ q, live.entry q = MapEntry.reset q := tableOf_get 256 _
  have h : shadowing.entry page = if page = 7 then { live.entry 7 with claim := some 0 } else live.entry page := by
    simp only [shadowing, withSession, State.entry, State.setEntry, State.setFrame, State.setSession]
    simp [Vector.getElem_set, eq_comm, Fin.ext_iff]
  rw [h]
  split
  · next hp => rw [hl, hp]
  · rw [hl, MapEntry.reset]

theorem shadowing_claim (page : LP) : (shadowing.entry page).claim = if page = 7 then some 0 else none := by
  rw [shadowing_entry]

theorem shadowing_mapped (page : LP) : (shadowing.frame (shadowing.entry page).frame).state = .mapped ∧
    (shadowing.frame (shadowing.entry page).frame).owner = some (.page page) := by
  have hlt : (page.castLE (by decide) : PF).val < 256 := page.isLt
  have hne : (page.castLE (by decide) : PF) ≠ 256 := fun h => by rw [h] at hlt; exact absurd hlt (by decide)
  rw [shadowing_entry, MapEntry.reset, shadowing_frame, if_neg hne, live_frame, FrameRec.reset, dif_pos hlt]
  exact ⟨rfl, rfl⟩

theorem shadowing_shadows (slot : Slot) :
    (shadowing.session slot).shadows = if slot = 0 then [⟨7, 256, false⟩] else [] := by
  revert slot
  decide +kernel

theorem shadowing_members (g : GroupIx) : (shadowing.group g).members = [] := by
  revert g
  decide +kernel

theorem witness_StepKeepsPageMapLaw : shadowing.PageMapLaw where
  pool := shadowing_poolLaw
  mapped := shadowing_mapped
  shadows := by decide +kernel
  shadowFrames := by decide +kernel
  shadowPages := by decide +kernel
  freeShadows := by decide +kernel
  claims page slot := by
    rw [shadowing_claim, shadowing_shadows]
    by_cases hp : page = 7
    · subst hp
      by_cases hs : slot = 0
      · subst hs; simp only [if_true, List.mem_singleton, exists_eq_left]
      · simp only [if_true, if_neg hs, List.not_mem_nil, false_and, exists_false, iff_false, Option.some.injEq]
        exact fun h => hs h.symm
    · rw [if_neg hp]
      by_cases hs : slot = 0
      · subst hs
        simp only [if_true, List.mem_singleton, exists_eq_left, reduceCtorEq, false_iff]
        exact fun h => hp h.symm
      · simp only [if_neg hs, List.not_mem_nil, false_and, exists_false, reduceCtorEq]
  sessionJobs := nofun
  copySources := nofun
  pins pf := (show shadowing.holders pf = 0 from rfl) ▸ Nat.zero_le _
  oneJob := by decide +kernel
  relocateJobs := nofun
  oneRelocation := by decide +kernel
  waiters := nofun
  oneWait := by decide +kernel
  members g := by rw [shadowing_members]; simp

theorem witness_OnlyDeviceResetRenewsFrames : live.PoolLaw ∧ Instr.tick ≠ .deviceReset :=
  ⟨live_poolLaw, by decide⟩

theorem witness_VersionsOnlyStep :
    shadowing.PageMapLaw ∧ Instr.commit 0 0x11 0x08 ≠ .deviceReset ∧ ∃ t, exec (.commit 0 0x11 0x08) shadowing = .next t :=
  ⟨witness_StepKeepsPageMapLaw, by decide, _, rfl⟩

theorem witness_OnlyTheseCommandsChange : ∃ t, exec .tick live = .next t := ⟨_, rfl⟩

end Sys2Proof.Tests
end

-- ==== Page map law: the view of the state that the law speaks of ====
section
/-! PROOFS. The page map law as a law of a *view*: the parts of the state that the law reads, as functions. An event that
ends a session passes through states in which the session's record is stale; the law then holds of a view in which the
session is FREE already. -/

namespace Sys2Proof.Machine

/-- What the page map law reads of the state, with the versions at the start of the event and whether the event has come to
the service of requests, in which alone versions step (R5, R101). -/
@[ext] structure View where
  entry   : LP → MapEntry
  frame   : PF → FrameRec
  pool    : List PF
  session : Slot → SessionRec
  members : GroupIx → List Slot
  jobs    : List Job
  waits   : List WaitEntry
  readers : PF → Nat
  origin  : LP → BitVec 16
  serving : Bool

/-- How many READs in service and scrub reads hold a pin on a frame (R25). -/
def State.readers (s : State) (pf : PF) : Nat :=
  ((List.finRange 4).map fun p => (s.port p).pinned.count pf).sum +
    (if s.scrub.map ScrubRead.frame = some pf then 1 else 0)

/-- How many jobs of a queue read a frame. -/
def jobReaders (jobs : List Job) (pf : PF) : Nat := (jobs.filter fun j => j.source? = some pf).length

/-- The page map law of a view, part by part as State.PageMapLaw; `versions` says that a page whose version has stepped in
this event has no claim, or one whose session waits for its COPY or ZERO job and so cannot be applied in this event. -/
structure View.Law (v : View) : Prop where
  pool          : v.pool.Nodup ∧ ∀ pf, pf ∈ v.pool ↔ (v.frame pf).state = .free
  mapped        : ∀ page, (v.frame (v.entry page).frame).state = .mapped ∧
    (v.frame (v.entry page).frame).owner = some (.page page)
  shadows       : ∀ slot, ∀ e ∈ (v.session slot).shadows,
    (v.frame e.frame).state = .shadow ∧ (v.frame e.frame).owner = some (.session slot)
  shadowFrames  : ∀ slot, ((v.session slot).shadows.map ShadowEntry.frame).Nodup
  shadowPages   : ∀ slot, ((v.session slot).shadows.map ShadowEntry.page).Nodup
  freeShadows   : ∀ slot, (v.session slot).state = .free → (v.session slot).shadows = []
  claims        : ∀ page slot, (v.entry page).claim = some slot ↔ ∃ e ∈ (v.session slot).shadows, e.page = page
  sessionJobs   : ∀ j ∈ v.jobs, ∀ slot, j.session? = some slot →
    (v.session slot).state = .opened ∧ (v.session slot).activity = .copying ∧
      ∃ e ∈ (v.session slot).shadows, e.page = j.page ∧ e.frame = j.target
  copySources   : ∀ j ∈ v.jobs, ∀ slot source write origin, j.kind = .copy slot source write origin →
    ((v.frame source).state = .mapped ∧ (v.frame source).owner = some (.page j.page)) ∨ (v.frame source).state = .held
  pins          : ∀ pf, v.readers pf + jobReaders v.jobs pf ≤ (v.frame pf).pins
  oneJob        : (v.jobs.filterMap Job.session?).Nodup
  relocateJobs  : ∀ j ∈ v.jobs, ∀ source, j.kind = .relocate source →
    source = (v.entry j.page).frame ∧ (v.entry j.page).relocating = true ∧ (v.frame j.target).state = .moving
  oneRelocation : (v.jobs.filter Job.isRelocate).length ≤ 1
  waiters       : ∀ e ∈ v.waits, (v.session e.slot).state = .opened ∧ (v.session e.slot).activity = .parked
  oneWait       : (v.waits.map WaitEntry.slot).Nodup
  members       : ∀ g, (v.members g).Nodup ∧ ∀ m ∈ v.members g, (v.session m).state ≠ .free ∧ (v.session m).group = some g
  versions      : ∀ page, (v.entry page).version = v.origin page ∨
    v.serving = true ∧ (v.entry page).version = nextVersion (v.origin page) ∧
      ∀ slot, (v.entry page).claim = some slot → (v.session slot).state = .opened ∧ (v.session slot).activity = .copying

/-! ### Updates of a view -/

/-- A field that an update leaves as it was reads the same at every place. -/
theorem update_field {α β γ : Type} [DecidableEq α] (f : α → β) (a : α) {x : β} (field : β → γ) (h : field x = field (f a))
    (b : α) : field (Function.update f a x b) = field (f b) := by
  by_cases hb : b = a
  · subst hb; rw [Function.update_self, h]
  · rw [Function.update_of_ne hb]

theorem nodup_append_singleton {α : Type} {l : List α} {a : α} (h : l.Nodup) (ha : a ∉ l) : (l ++ [a]).Nodup :=
  List.concat_eq_append ▸ h.concat ha

/-- A frame's record is replaced; a frame that becomes FREE joins the pool tail. -/
def View.setFrame (v : View) (pf : PF) (f : FrameRec) : View :=
  { v with
    frame := Function.update v.frame pf f
    pool := if (v.frame pf).state ≠ .free ∧ f.state = .free then v.pool ++ [pf] else v.pool }

/-- A map entry is replaced. -/
def View.setEntry (v : View) (page : LP) (e : MapEntry) : View := { v with entry := Function.update v.entry page e }

/-- A session's record is replaced. -/
def View.setSession (v : View) (slot : Slot) (r : SessionRec) : View :=
  { v with session := Function.update v.session slot r }

section
variable {v : View}

theorem jobReaders_pos {jobs : List Job} {j : Job} {source : PF} (hj : j ∈ jobs) (hs : j.source? = some source) :
    0 < jobReaders jobs source :=
  List.length_pos_of_mem (List.mem_filter.mpr ⟨hj, by simpa using hs⟩)

/-- A job of a copy kind names its session and its source. -/
theorem Job.of_kind_copy {j : Job} {slot : Slot} {source : PF} {write : PendingWrite} {origin : Origin}
    (h : j.kind = .copy slot source write origin) : j.session? = some slot ∧ j.source? = some source := by
  simp [Job.session?, Job.source?, h]

theorem Job.of_kind_relocate {j : Job} {source : PF} (h : j.kind = .relocate source) :
    j.source? = some source ∧ j.isRelocate = true ∧ j.session? = none := by
  simp [Job.source?, Job.isRelocate, Job.session?, h]

theorem Job.kind_of_isRelocate {j : Job} (h : j.isRelocate = true) : ∃ source, j.kind = .relocate source := by
  revert h
  cases hk : j.kind <;> simp [Job.isRelocate, hk]

/-! ### Pins, jobs and waits that go -/

/-- Jobs may leave the queue, and pins held by jobs may become pins held otherwise, so long as the pins suffice. -/
theorem View.Law.shrink (h : v.Law) {jobs : List Job} {readers : PF → Nat} (hj : jobs.Sublist v.jobs)
    (hr : ∀ pf, readers pf + jobReaders jobs pf ≤ v.readers pf + jobReaders v.jobs pf) :
    View.Law { v with jobs := jobs, readers := readers } :=
  { h with
    pool := h.pool
    sessionJobs := fun j hm => h.sessionJobs j (hj.subset hm)
    copySources := fun j hm => h.copySources j (hj.subset hm)
    pins := fun pf => (hr pf).trans (h.pins pf)
    oneJob := h.oneJob.sublist (hj.filterMap _)
    relocateJobs := fun j hm => h.relocateJobs j (hj.subset hm)
    oneRelocation := (hj.filter _).length_le.trans h.oneRelocation }

theorem View.Law.readers_le (h : v.Law) {readers : PF → Nat} (hr : ∀ pf, readers pf ≤ v.readers pf) :
    View.Law { v with readers := readers } :=
  h.shrink (List.Sublist.refl _) fun pf => Nat.add_le_add_right (hr pf) _

theorem jobReaders_append (l l' : List Job) (pf : PF) : jobReaders (l ++ l') pf = jobReaders l pf + jobReaders l' pf := by
  simp [jobReaders]

theorem jobReaders_cons (j : Job) (l : List Job) (pf : PF) :
    jobReaders (j :: l) pf = (if j.source? = some pf then 1 else 0) + jobReaders l pf := by
  by_cases h : j.source? = some pf <;> simp [jobReaders, h, Nat.add_comm]

/-- A job leaves the queue; the pin it holds is still counted. -/
theorem View.Law.dropJob (h : v.Law) {before after : List Job} {j : Job} (hj : v.jobs = before ++ j :: after) :
    View.Law { v with
      jobs := before ++ after, readers := fun pf => v.readers pf + if j.source? = some pf then 1 else 0 } := by
  refine h.shrink ?_ fun pf => ?_
  · rw [hj]
    exact List.Sublist.append_left (List.sublist_cons_self ..) _
  · rw [hj]
    simp only [jobReaders_append, jobReaders_cons]
    omega

/-- Entries may leave the claim wait list. -/
theorem View.Law.waits_sublist (h : v.Law) {waits : List WaitEntry} (hw : waits.Sublist v.waits) :
    View.Law { v with waits := waits } :=
  { h with
    pool := h.pool
    waiters := fun e he => h.waiters e (hw.subset he)
    oneWait := h.oneWait.sublist (hw.map _) }

/-- A group may lose its member list. -/
theorem View.Law.members_sublist (h : v.Law) {members : GroupIx → List Slot}
    (hm : ∀ g, (members g).Sublist (v.members g)) : View.Law { v with members := members } :=
  { h with
    pool := h.pool
    members := fun g => ⟨(h.members g).1.sublist (hm g), fun m hmem => (h.members g).2 m ((hm g).subset hmem)⟩ }

/-! ### Frames -/

/-- A frame's record is replaced by one that serves every role the frame has. -/
theorem View.Law.setFrame (h : v.Law) {pf : PF} {f : FrameRec}
    (hpool : (v.frame pf).state = .free → f.state = .free)
    (hmap : ∀ page, (v.entry page).frame = pf → f.state = .mapped ∧ f.owner = some (.page page))
    (hshadow : ∀ slot, ∀ e ∈ (v.session slot).shadows, e.frame = pf → f.state = .shadow ∧ f.owner = some (.session slot))
    (hcopy : ∀ j ∈ v.jobs, ∀ slot write origin, j.kind = .copy slot pf write origin →
      (f.state = .mapped ∧ f.owner = some (.page j.page)) ∨ f.state = .held)
    (hmoving : ∀ j ∈ v.jobs, j.isRelocate = true → j.target = pf → f.state = .moving)
    (hpins : v.readers pf + jobReaders v.jobs pf ≤ f.pins) : (v.setFrame pf f).Law :=
  { h with
    pool := by
      have hmem := h.pool.2
      simp only [View.setFrame]
      split
      · next hf =>
        refine ⟨List.nodup_append.mpr ⟨h.pool.1, List.nodup_singleton pf, fun a ha b hb hab => ?_⟩, fun q => ?_⟩
        · rw [List.mem_singleton.mp hb] at hab
          exact hf.1 ((hmem pf).mp (hab ▸ ha))
        · by_cases hq : q = pf
          · simp [hq, hf.2]
          · simp [hq, hmem]
      · next hf =>
        refine ⟨h.pool.1, fun q => ?_⟩
        by_cases hq : q = pf
        · subst hq
          rw [hmem, Function.update_self]
          exact ⟨hpool, fun hfree => by_contra fun hne => hf ⟨hne, hfree⟩⟩
        · rw [hmem, Function.update_of_ne hq]
    mapped := fun page => by
      by_cases hp : (v.entry page).frame = pf
      · simpa [View.setFrame, hp] using hmap page hp
      · simpa [View.setFrame, hp] using h.mapped page
    shadows := fun slot e he => by
      by_cases hp : e.frame = pf
      · simpa [View.setFrame, hp] using hshadow slot e he hp
      · simpa [View.setFrame, hp] using h.shadows slot e he
    copySources := fun j hj slot source write origin hk => by
      by_cases hp : source = pf
      · subst hp
        simpa [View.setFrame] using hcopy j hj slot write origin hk
      · simpa [View.setFrame, hp] using h.copySources j hj slot source write origin hk
    pins := fun q => by
      by_cases hq : q = pf
      · simpa [View.setFrame, hq] using hpins
      · simpa [View.setFrame, hq] using h.pins q
    relocateJobs := fun j hj source hk => by
      obtain ⟨hs, hr, hm⟩ := h.relocateJobs j hj source hk
      refine ⟨hs, hr, ?_⟩
      by_cases hp : j.target = pf
      · simpa [View.setFrame, hp] using hmoving j hj (Job.of_kind_relocate hk).2.1 hp
      · simpa [View.setFrame, hp] using hm }

/-- A frame that keeps its state and its owner and has pins enough. -/
theorem View.Law.setFrame_same (h : v.Law) {pf : PF} {f : FrameRec} (hs : f.state = (v.frame pf).state)
    (ho : f.owner = (v.frame pf).owner) (hpins : v.readers pf + jobReaders v.jobs pf ≤ f.pins) :
    (v.setFrame pf f).Law := by
  refine h.setFrame (fun hf => hs.trans hf) (fun page hp => ?_) (fun slot e he hp => ?_)
    (fun j hj slot write origin hk => ?_) (fun j hj hr hp => ?_) hpins
  · rw [hs, ho, ← hp]; exact h.mapped page
  · rw [hs, ho, ← hp]; exact h.shadows slot e he
  · rw [hs, ho]; exact h.copySources j hj slot pf write origin hk
  · obtain ⟨source, hk⟩ := Job.kind_of_isRelocate hr
    rw [hs, ← hp]; exact (h.relocateJobs j hj source hk).2.2

/-- A frame is pinned, for one more reader or for none. -/
theorem View.Law.pin (h : v.Law) {pf : PF} {readers : PF → Nat}
    (hr : ∀ q, readers q ≤ v.readers q + if q = pf then 1 else 0) :
    (View.setFrame { v with readers := readers } pf { v.frame pf with pins := (v.frame pf).pins + 1 }).Law := by
  have hw := h.setFrame_same (pf := pf) (f := { v.frame pf with pins := (v.frame pf).pins + 1 }) rfl rfl
    ((h.pins pf).trans (Nat.le_succ _))
  refine
  { hw with
    pool := hw.pool
    pins := fun q => ?_ }
  have hp := h.pins q
  have hq := hr q
  by_cases he : q = pf
  · subst he
    rw [if_pos rfl] at hq
    simp only [View.setFrame, Function.update_self]
    omega
  · rw [if_neg he] at hq
    simp only [View.setFrame, Function.update_of_ne he]
    omega

/-- What a frame's record becomes at the release of a pin (R26). -/
def FrameRec.unpinned (f : FrameRec) : FrameRec :=
  if f.state = .held ∧ f.pins - 1 = 0 then
    { f with state := if f.retireOnRelease then .retired else .free, owner := none, pins := f.pins - 1 }
  else { f with pins := f.pins - 1 }

/-- What a frame's record becomes at its release (R24). -/
def FrameRec.released (f : FrameRec) : FrameRec :=
  if f.state.releasable then
    { f with
      state := if 0 < f.pins then .held else if f.retireOnRelease then .retired else .free
      owner := none }
  else f

@[simp] theorem FrameRec.unpinned_pins (f : FrameRec) : f.unpinned.pins = f.pins - 1 := by
  simp only [FrameRec.unpinned]; split <;> rfl

@[simp] theorem FrameRec.released_pins (f : FrameRec) : f.released.pins = f.pins := by
  simp only [FrameRec.released]; split <;> rfl

/-- A pin that no job holds is released: a HELD frame that lets go of its last pin is read by no job. -/
theorem View.Law.unpin (h : v.Law) {pf : PF} {readers : PF → Nat}
    (hr : ∀ q, readers q + (if q = pf then 1 else 0) ≤ v.readers q) :
    (View.setFrame { v with readers := readers } pf (v.frame pf).unpinned).Law := by
  have hle : ∀ q, readers q ≤ v.readers q := fun q => le_trans (Nat.le_add_right ..) (hr q)
  have hw := h.readers_le hle
  have hself := hr pf
  rw [if_pos rfl] at hself
  have hpins := h.pins pf
  by_cases hlast : (v.frame pf).state = .held ∧ (v.frame pf).pins - 1 = 0
  · have hstate : (v.frame pf).state = .held := hlast.1
    have hnone : jobReaders v.jobs pf = 0 := by omega
    refine hw.setFrame (fun hf => ?_) (fun page hp => ?_) (fun slot e he hp => ?_)
      (fun j hj slot write origin hk => ?_) (fun j hj hr hp => ?_) ?_
    · rw [hstate] at hf; cases hf
    · have := (h.mapped page).1
      rw [hp, hstate] at this; cases this
    · have := (h.shadows slot e he).1
      rw [hp, hstate] at this; cases this
    · exact absurd hnone (jobReaders_pos hj (Job.of_kind_copy hk).2).ne'
    · obtain ⟨source, hk⟩ := Job.kind_of_isRelocate hr
      have := (h.relocateJobs j hj source hk).2.2
      rw [hp, hstate] at this; cases this
    · simp only [FrameRec.unpinned_pins]; omega
  · have hu : (v.frame pf).unpinned = { v.frame pf with pins := (v.frame pf).pins - 1 } := if_neg hlast
    rw [hu]
    exact hw.setFrame_same rfl rfl (by show readers pf + jobReaders v.jobs pf ≤ (v.frame pf).pins - 1; omega)

/-- A frame that no page maps, no session holds as a shadow and no relocation fills. -/
structure View.Unused (v : View) (pf : PF) : Prop where
  page    : ∀ page, (v.entry page).frame ≠ pf
  shadow  : ∀ slot, ∀ e ∈ (v.session slot).shadows, e.frame ≠ pf
  moving  : ∀ j ∈ v.jobs, j.isRelocate = true → j.target ≠ pf

/-- An unused frame is released; a job that reads it keeps it HELD. -/
theorem View.Law.release (h : v.Law) {pf : PF} (hu : v.Unused pf) : (v.setFrame pf (v.frame pf).released).Law := by
  refine h.setFrame (fun hf => ?_) (fun page hp => absurd hp (hu.page page))
    (fun slot e he hp => absurd hp (hu.shadow slot e he)) (fun j hj slot write origin hk => .inr ?_)
    (fun j hj hr hp => absurd hp (hu.moving j hj hr)) (by simpa using h.pins pf)
  · simp [FrameRec.released, hf, FrameState.releasable]
  · have hpos : 0 < (v.frame pf).pins := by
      have := jobReaders_pos hj (Job.of_kind_copy hk).2
      have := h.pins pf
      omega
    rcases h.copySources j hj slot pf write origin hk with ⟨hm, -⟩ | hh
    · simp [FrameRec.released, hm, FrameState.releasable, hpos]
    · simp [FrameRec.released, hh, FrameState.releasable]

/-- A frame that is neither MAPPED nor SHADOW nor MOVING is unused. -/
theorem View.Law.unused_of_state (h : v.Law) {pf : PF} (hm : (v.frame pf).state ≠ .mapped)
    (hs : (v.frame pf).state ≠ .shadow) (hv : (v.frame pf).state ≠ .moving) : v.Unused pf where
  page page hp := hm (hp ▸ (h.mapped page).1)
  shadow slot e he hp := hs (hp ▸ (h.shadows slot e he).1)
  moving j hj hr hp := by
    obtain ⟨source, hk⟩ := Job.kind_of_isRelocate hr
    exact hv (hp ▸ (h.relocateJobs j hj source hk).2.2)

/-- The head of the pool is put to a use. -/
theorem View.Law.takeFree (h : v.Law) {pf : PF} {rest : List PF} {f : FrameRec} (hp : v.pool = pf :: rest)
    (hs : f.state ≠ .free) (hpins : f.pins = (v.frame pf).pins) :
    View.Law { v with pool := rest, frame := Function.update v.frame pf f } := by
  have hn := h.pool.1
  rw [hp, List.nodup_cons] at hn
  have hfree : (v.frame pf).state = .free := (h.pool.2 pf).mp (by simp [hp])
  have hother : ∀ q, (v.frame q).state ≠ .free → q ≠ pf := fun q hq he => hq (he ▸ hfree)
  exact
  { h with
    pool := by
      refine ⟨hn.2, fun q => ?_⟩
      by_cases hq : q = pf
      · subst hq
        simp [hn.1, hs]
      · have := h.pool.2 q
        rw [hp, List.mem_cons, or_iff_right hq] at this
        simpa [hq] using this
    mapped := fun page => by
      have := h.mapped page
      have hne := hother (v.entry page).frame (by simp [this.1])
      simpa [hne] using this
    shadows := fun slot e he => by
      have := h.shadows slot e he
      have hne := hother e.frame (by simp [this.1])
      simpa [hne] using this
    copySources := fun j hj slot source write origin hk => by
      have := h.copySources j hj slot source write origin hk
      have hne := hother source (by rcases this with this | this <;> simp [this])
      simpa [hne] using this
    pins := fun q => by
      by_cases hq : q = pf
      · subst hq
        simpa [hpins] using h.pins q
      · simpa [hq] using h.pins q
    relocateJobs := fun j hj source hk => by
      obtain ⟨hs, hr, hm⟩ := h.relocateJobs j hj source hk
      have hne := hother j.target (by simp [hm])
      exact ⟨hs, hr, by simpa [hne] using hm⟩ }

/-! ### Map entries -/

/-- A map entry's condition and relocating flag change; the flag of a page in relocation stays set. -/
theorem View.Law.setEntry (h : v.Law) {page : LP} {e : MapEntry} (hf : e.frame = (v.entry page).frame)
    (hv : e.version = (v.entry page).version) (hc : e.claim = (v.entry page).claim)
    (hr : e.relocating = true ∨ ∀ j ∈ v.jobs, j.isRelocate = true → j.page ≠ page) : (v.setEntry page e).Law := by
  have frame_eq : ∀ q, ((v.setEntry page e).entry q).frame = (v.entry q).frame := update_field v.entry page _ hf
  have version_eq : ∀ q, ((v.setEntry page e).entry q).version = (v.entry q).version := update_field v.entry page _ hv
  have claim_eq : ∀ q, ((v.setEntry page e).entry q).claim = (v.entry q).claim := update_field v.entry page _ hc
  exact
  { h with
    pool := h.pool
    mapped := fun q => frame_eq q ▸ h.mapped q
    claims := fun q slot => claim_eq q ▸ h.claims q slot
    relocateJobs := fun j hj source hk => by
      obtain ⟨hs, hrel, hm⟩ := h.relocateJobs j hj source hk
      refine ⟨hs.trans (frame_eq j.page).symm, ?_, hm⟩
      by_cases hq : j.page = page
      · rcases hr with hr | hr
        · simp [View.setEntry, hq, hr]
        · exact absurd hq (hr j hj (Job.of_kind_relocate hk).2.1)
      · simpa [View.setEntry, hq] using hrel
    versions := fun q => by
      rw [version_eq, claim_eq]
      exact h.versions q }

/-- An unused SHADOW or MOVING frame becomes a page's frame, at the version the page has or, where the page has no claim, at
the next one. -/
theorem View.Law.remap (h : v.Law) {page : LP} {e : MapEntry} {pf : PF} {f : FrameRec} (hu : v.Unused pf)
    (hst : (v.frame pf).state = .shadow ∨ (v.frame pf).state = .moving) (hfs : f.state = .mapped)
    (hfo : f.owner = some (.page page)) (hfp : f.pins = (v.frame pf).pins) (hf : e.frame = pf)
    (hc : e.claim = (v.entry page).claim) (hj : ∀ j ∈ v.jobs, j.isRelocate = true → j.page ≠ page)
    (hv : e.version = (v.entry page).version ∨
      v.serving = true ∧ (v.entry page).version = v.origin page ∧ e.version = nextVersion (v.origin page) ∧
        (v.entry page).claim = none) :
    ((v.setEntry page e).setFrame pf f).Law := by
  have claim_eq : ∀ q, ((v.setEntry page e).entry q).claim = (v.entry q).claim := update_field v.entry page _ hc
  have hnotfree : (v.frame pf).state ≠ .free := by rcases hst with h | h <;> simp [h]
  exact
  { h with
    pool := by
      simp only [View.setFrame, View.setEntry, hfs, reduceCtorEq, and_false, if_false]
      refine ⟨h.pool.1, fun q => ?_⟩
      rw [h.pool.2]
      by_cases hq : q = pf
      · simp [hq, hnotfree, hfs]
      · simp [hq]
    mapped := fun q => by
      by_cases hq : q = page
      · simp [View.setFrame, View.setEntry, hq, hf, hfs, hfo]
      · simpa [View.setFrame, View.setEntry, hq, hu.page q] using h.mapped q
    shadows := fun slot x hx => by
      simpa [View.setFrame, View.setEntry, hu.shadow slot x hx] using h.shadows slot x hx
    claims := fun q slot => claim_eq q ▸ h.claims q slot
    copySources := fun j hjm slot source write origin hk => by
      have hs := h.copySources j hjm slot source write origin hk
      have hne : source ≠ pf := fun he => by
        rw [he] at hs
        rcases hst with hst | hst <;> simp [hst] at hs
      simpa [View.setFrame, View.setEntry, hne] using hs
    pins := fun q => by
      by_cases hq : q = pf
      · subst hq
        simpa [View.setFrame, View.setEntry, hfp] using h.pins q
      · simpa [View.setFrame, View.setEntry, hq] using h.pins q
    relocateJobs := fun j hjm source hk => by
      obtain ⟨hs, hrel, hm⟩ := h.relocateJobs j hjm source hk
      have hreloc := (Job.of_kind_relocate hk).2.1
      have hp := hj j hjm hreloc
      have ht := hu.moving j hjm hreloc
      simp [View.setFrame, View.setEntry, hp, ht, hrel, hm, ← hs]
    versions := fun q => by
      by_cases hq : q = page
      · subst hq
        rcases hv with hv | ⟨hserving, hold, hnew, hnone⟩
        · simpa [View.setFrame, View.setEntry, hv, hc] using h.versions q
        · exact .inr (by simp [View.setFrame, View.setEntry, hserving, hnew, hc, hnone])
      · simpa [View.setFrame, View.setEntry, hq] using h.versions q }

/-- The frame that a page mapped until another took its place is unused. -/
theorem View.Law.unused_old (h : v.Law) {page : LP} {e : MapEntry} (hne : e.frame ≠ (v.entry page).frame) :
    (v.setEntry page e).Unused (v.entry page).frame where
  page q hq := by
    by_cases hp : q = page
    · subst hp
      exact hne (by simpa [View.setEntry] using hq)
    · have hq' : (v.entry q).frame = (v.entry page).frame := by simpa [View.setEntry, hp] using hq
      have hown := (h.mapped q).2
      rw [hq', (h.mapped page).2] at hown
      exact hp (by simpa using hown.symm)
  shadow slot x hx hp := by
    have := (h.shadows slot x hx).1
    rw [hp, (h.mapped page).1] at this
    cases this
  moving j hj hr hp := by
    obtain ⟨source, hk⟩ := Job.kind_of_isRelocate hr
    have := (h.relocateJobs j hj source hk).2.2
    rw [hp, (h.mapped page).1] at this
    cases this

/-! ### Shadow entries and claims -/

/-- Two shadow entries with one frame are one entry of one session. -/
theorem View.Law.shadow_unique (h : v.Law) {slot slot' : Slot} {e e' : ShadowEntry} (he : e ∈ (v.session slot).shadows)
    (he' : e' ∈ (v.session slot').shadows) (hf : e.frame = e'.frame) : slot = slot' ∧ e = e' := by
  have howner := (h.shadows slot e he).2
  rw [hf, (h.shadows slot' e' he').2] at howner
  have hslot : slot = slot' := by simpa using howner.symm
  subst hslot
  exact ⟨rfl, List.inj_on_of_nodup_map (h.shadowFrames slot) he he' hf⟩

/-- A session's shadow entries of a page leave its list with the page's claim. -/
theorem View.Law.dropEntry (h : v.Law) {slot : Slot} {page : LP} {rest : List ShadowEntry}
    (hsub : rest.Sublist (v.session slot).shadows)
    (hrest : ∀ x ∈ (v.session slot).shadows, x ∈ rest ↔ x.page ≠ page) (hclaim : (v.entry page).claim = some slot)
    (hjob : ∀ j ∈ v.jobs, j.session? = some slot → j.page ≠ page) :
    ((v.setEntry page { v.entry page with claim := none }).setSession slot
      { v.session slot with shadows := rest }).Law := by
  have shadows_of_ne : ∀ q, q ≠ slot → (Function.update v.session slot { v.session slot with shadows := rest } q) =
      v.session q := fun q hq => Function.update_of_ne hq ..
  have state_eq := update_field v.session slot (x := { v.session slot with shadows := rest }) SessionRec.state rfl
  have activity_eq := update_field v.session slot (x := { v.session slot with shadows := rest }) SessionRec.activity rfl
  have group_eq := update_field v.session slot (x := { v.session slot with shadows := rest }) SessionRec.group rfl
  have shadows_sub : ∀ q, (Function.update v.session slot { v.session slot with shadows := rest } q).shadows.Sublist
      (v.session q).shadows := fun q => by
    by_cases hq : q = slot
    · subst hq; simpa using hsub
    · simp [hq]
  have frame_eq := update_field v.entry page (x := { v.entry page with claim := none }) MapEntry.frame rfl
  have version_eq := update_field v.entry page (x := { v.entry page with claim := none }) MapEntry.version rfl
  have relocating_eq := update_field v.entry page (x := { v.entry page with claim := none }) MapEntry.relocating rfl
  simp only [View.setSession, View.setEntry]
  exact
  { h with
    pool := h.pool
    mapped := fun q => by simpa only [frame_eq] using h.mapped q
    shadows := fun q x hx => h.shadows q x ((shadows_sub q).subset hx)
    shadowFrames := fun q => (h.shadowFrames q).sublist ((shadows_sub q).map _)
    shadowPages := fun q => (h.shadowPages q).sublist ((shadows_sub q).map _)
    freeShadows := fun q hq => by
      simp only [state_eq] at hq
      exact List.sublist_nil.mp (h.freeShadows q hq ▸ shadows_sub q)
    claims := fun q holder => by
      by_cases hq : q = page
      · subst hq
        simp only [Function.update_self, reduceCtorEq, false_iff, not_exists, not_and]
        intro x hx hp
        by_cases hh : holder = slot
        · subst hh
          simp only [Function.update_self] at hx
          exact (hrest x (hsub.subset hx)).mp hx hp
        · rw [shadows_of_ne holder hh] at hx
          have := (h.claims q holder).mpr ⟨x, hx, hp⟩
          rw [hclaim] at this
          exact hh (by simpa using this.symm)
      · by_cases hh : holder = slot
        · subst hh
          simp only [Function.update_self, Function.update_of_ne hq, h.claims]
          exact ⟨fun ⟨x, hx, hp⟩ => ⟨x, (hrest x hx).mpr (hp ▸ hq), hp⟩, fun ⟨x, hx, hp⟩ => ⟨x, hsub.subset hx, hp⟩⟩
        · simpa only [shadows_of_ne holder hh, Function.update_of_ne hq] using h.claims q holder
    sessionJobs := fun j hj q hs => by
      obtain ⟨ho, ha, x, hx, hp, ht⟩ := h.sessionJobs j hj q hs
      simp only [state_eq, activity_eq]
      refine ⟨ho, ha, x, ?_, hp, ht⟩
      by_cases hq : q = slot
      · subst hq
        simpa using (hrest x hx).mpr (hp ▸ hjob j hj hs)
      · rw [shadows_of_ne q hq]; exact hx
    relocateJobs := fun j hj source hk => by simpa only [frame_eq, relocating_eq] using h.relocateJobs j hj source hk
    waiters := fun w hw => by simpa only [state_eq, activity_eq] using h.waiters w hw
    members := fun g => by simpa only [state_eq, group_eq] using h.members g
    versions := fun q => by
      simp only [version_eq, state_eq, activity_eq]
      refine (h.versions q).imp_right fun ⟨hs, hv, hc⟩ => ⟨hs, hv, fun holder hh => hc holder ?_⟩
      by_cases hq : q = page
      · simp [hq] at hh
      · simpa [hq] using hh }

/-- The frame of a shadow entry that has left its list is unused. -/
theorem View.Law.unused_dropped (h : v.Law) {slot : Slot} {e : ShadowEntry} {m : MapEntry} {rest : List ShadowEntry}
    (he : e ∈ (v.session slot).shadows) (hsub : rest.Sublist (v.session slot).shadows) (hrest : e ∉ rest)
    (hm : m.frame = (v.entry e.page).frame) :
    ((v.setEntry e.page m).setSession slot { v.session slot with shadows := rest }).Unused e.frame where
  page q hq := by
    have hq' : (v.entry q).frame = e.frame := by
      by_cases hp : q = e.page
      · subst hp; simpa [View.setSession, View.setEntry, hm] using hq
      · simpa [View.setSession, View.setEntry, hp] using hq
    have := (h.mapped q).1
    rw [hq', (h.shadows slot e he).1] at this
    cases this
  shadow q x hx hf := by
    by_cases hq : q = slot
    · subst hq
      have hx' : x ∈ rest := by simpa [View.setSession] using hx
      obtain ⟨-, rfl⟩ := h.shadow_unique (hsub.subset hx') he hf
      exact hrest hx'
    · have hx' : x ∈ (v.session q).shadows := by simpa [View.setSession, View.setEntry, hq] using hx
      exact hq (h.shadow_unique hx' he hf).1
  moving j hj hr hp := by
    obtain ⟨source, hk⟩ := Job.kind_of_isRelocate hr
    have := (h.relocateJobs j hj source hk).2.2
    rw [hp, (h.shadows slot e he).1] at this
    cases this

/-- A session without a job takes the claim of an unclaimed page with an unused SHADOW frame of its own. -/
theorem View.Law.addEntry (h : v.Law) {slot : Slot} {r : SessionRec} {e : ShadowEntry} (hu : v.Unused e.frame)
    (hs : (v.frame e.frame).state = .shadow) (ho : (v.frame e.frame).owner = some (.session slot))
    (hclaim : (v.entry e.page).claim = none) (hopen : (v.session slot).state = .opened) (hr : r.state = .opened)
    (ha : r.activity = .copying) (hg : r.group = (v.session slot).group)
    (hl : r.shadows = (v.session slot).shadows ++ [e]) (hjob : ∀ j ∈ v.jobs, j.session? ≠ some slot)
    (hwait : ∀ w ∈ v.waits, w.slot ≠ slot) :
    ((v.setEntry e.page { v.entry e.page with claim := some slot }).setSession slot r).Law := by
  have session_of_ne : ∀ q, q ≠ slot → Function.update v.session slot r q = v.session q := fun q hq =>
    Function.update_of_ne hq ..
  have frame_eq := update_field v.entry e.page (x := { v.entry e.page with claim := some slot }) MapEntry.frame rfl
  have version_eq := update_field v.entry e.page (x := { v.entry e.page with claim := some slot }) MapEntry.version rfl
  have relocating_eq := update_field v.entry e.page (x := { v.entry e.page with claim := some slot }) MapEntry.relocating rfl
  have hnew : ∀ x ∈ (v.session slot).shadows, x.page ≠ e.page := fun x hx hp => by
    have := (h.claims e.page slot).mpr ⟨x, hx, hp⟩
    rw [hclaim] at this
    cases this
  simp only [View.setSession, View.setEntry]
  exact
  { h with
    pool := h.pool
    mapped := fun q => by simpa only [frame_eq] using h.mapped q
    shadows := fun q x hx => by
      by_cases hq : q = slot
      · subst hq
        simp only [Function.update_self, hl, List.mem_append, List.mem_singleton] at hx
        rcases hx with hx | rfl
        · exact h.shadows q x hx
        · exact ⟨hs, ho⟩
      · simp only [session_of_ne q hq] at hx
        exact h.shadows q x hx
    shadowFrames := fun q => by
      by_cases hq : q = slot
      · subst hq
        have hnot : e.frame ∉ (v.session q).shadows.map ShadowEntry.frame := fun hm => by
          obtain ⟨x, hx, hf⟩ := List.mem_map.mp hm
          exact hu.shadow q x hx hf
        simp only [Function.update_self, hl, List.map_append, List.map_cons, List.map_nil]
        exact nodup_append_singleton (h.shadowFrames q) hnot
      · simpa only [session_of_ne q hq] using h.shadowFrames q
    shadowPages := fun q => by
      by_cases hq : q = slot
      · subst hq
        have hnot : e.page ∉ (v.session q).shadows.map ShadowEntry.page := fun hm => by
          obtain ⟨x, hx, hp⟩ := List.mem_map.mp hm
          exact hnew x hx hp
        simp only [Function.update_self, hl, List.map_append, List.map_cons, List.map_nil]
        exact nodup_append_singleton (h.shadowPages q) hnot
      · simpa only [session_of_ne q hq] using h.shadowPages q
    freeShadows := fun q hq => by
      by_cases he : q = slot
      · subst he
        simp [hr] at hq
      · simp only [session_of_ne q he] at hq ⊢
        exact h.freeShadows q hq
    claims := fun q holder => by
      by_cases hq : q = e.page
      · subst hq
        by_cases hh : holder = slot
        · subst hh
          simp [hl]
        · simp only [Function.update_self, session_of_ne holder hh, Option.some.injEq, Ne.symm hh, false_iff]
          rw [← h.claims e.page holder, hclaim]
          nofun
      · by_cases hh : holder = slot
        · subst hh
          have hiff : (∃ x ∈ r.shadows, x.page = q) ↔ ∃ x ∈ (v.session holder).shadows, x.page = q := by
            simp only [hl, List.mem_append, List.mem_singleton, or_and_right, exists_or, exists_eq_left, Ne.symm hq, or_false]
          simp only [Function.update_self, Function.update_of_ne hq, hiff]
          exact h.claims q holder
        · simpa only [session_of_ne holder hh, Function.update_of_ne hq] using h.claims q holder
    sessionJobs := fun j hj q hq => by
      have hne : q ≠ slot := fun he => hjob j hj (he ▸ hq)
      simpa only [session_of_ne q hne] using h.sessionJobs j hj q hq
    relocateJobs := fun j hj source hk => by simpa only [frame_eq, relocating_eq] using h.relocateJobs j hj source hk
    waiters := fun w hw => by simpa only [session_of_ne w.slot (hwait w hw)] using h.waiters w hw
    members := fun g => ⟨(h.members g).1, fun m hm => by
      by_cases he : m = slot
      · subst he
        simpa [hr, hg] using ((h.members g).2 m hm).2
      · simpa only [session_of_ne m he] using (h.members g).2 m hm⟩
    versions := fun q => by
      simp only [version_eq]
      refine (h.versions q).imp_right fun ⟨hs, hv, hc⟩ => ⟨hs, hv, fun holder hh => ?_⟩
      by_cases he : holder = slot
      · subst he
        simp [hr, ha]
      · by_cases hq : q = e.page
        · subst hq
          simp only [Function.update_self, Option.some.injEq] at hh
          exact absurd hh.symm he
        · simp only [session_of_ne holder he, Function.update_of_ne hq] at hh ⊢
          exact hc holder hh }

/-! ### Jobs that come -/

/-- A session's job is queued for its unfilled shadow. -/
theorem View.Law.addSessionJob (h : v.Law) {j : Job} {slot : Slot} (hj : j.session? = some slot)
    (hopen : (v.session slot).state = .opened) (hact : (v.session slot).activity = .copying)
    (hentry : ∃ e ∈ (v.session slot).shadows, e.page = j.page ∧ e.frame = j.target)
    (hone : ∀ x ∈ v.jobs, x.session? ≠ some slot)
    (hsource : ∀ source, j.source? = some source → (v.frame source).state = .mapped ∧
      (v.frame source).owner = some (.page j.page))
    (hpins : ∀ source, j.source? = some source →
      v.readers source + jobReaders v.jobs source < (v.frame source).pins) :
    View.Law { v with jobs := v.jobs ++ [j] } := by
  have hkind : j.isRelocate = false := by
    revert hj
    cases hk : j.kind <;> simp [Job.session?, Job.isRelocate, hk]
  exact
  { h with
    pool := h.pool
    sessionJobs := fun x hx q hq => by
      rcases List.mem_append.mp hx with hx | hx
      · exact h.sessionJobs x hx q hq
      · rw [List.mem_singleton.mp hx] at hq ⊢
        rw [hj, Option.some.injEq] at hq
        subst hq
        exact ⟨hopen, hact, hentry⟩
    copySources := fun x hx q source write origin hk => by
      rcases List.mem_append.mp hx with hx | hx
      · exact h.copySources x hx q source write origin hk
      · rw [List.mem_singleton.mp hx] at hk ⊢
        exact .inl (hsource source (Job.of_kind_copy hk).2)
    pins := fun pf => by
      have := h.pins pf
      rw [jobReaders_append, jobReaders_cons]
      split
      · next he =>
        have := hpins pf he
        simp only [jobReaders, List.filter_nil, List.length_nil] at this ⊢
        omega
      · simpa [jobReaders] using this
    oneJob := by
      rw [List.filterMap_append, List.filterMap_cons_some hj, List.filterMap_nil]
      refine nodup_append_singleton h.oneJob fun hm => ?_
      obtain ⟨x, hx, hs⟩ := List.mem_filterMap.mp hm
      exact hone x hx hs
    relocateJobs := fun x hx source hk => by
      rcases List.mem_append.mp hx with hx | hx
      · exact h.relocateJobs x hx source hk
      · rw [List.mem_singleton.mp hx] at hk
        have := (Job.of_kind_relocate hk).2.1
        rw [hkind] at this
        cases this
    oneRelocation := by
      rw [List.filter_append, List.length_append]
      simpa [hkind] using h.oneRelocation }

/-- A RELOCATE job is queued where there is none. -/
theorem View.Law.addRelocateJob (h : v.Law) {j : Job} {source : PF} (hj : j.kind = .relocate source)
    (hsource : source = (v.entry j.page).frame) (hrel : (v.entry j.page).relocating = true)
    (htarget : (v.frame j.target).state = .moving) (hone : ∀ x ∈ v.jobs, x.isRelocate = false)
    (hpins : v.readers source + jobReaders v.jobs source < (v.frame source).pins) :
    View.Law { v with jobs := v.jobs ++ [j] } := by
  obtain ⟨hs, hr, hn⟩ := Job.of_kind_relocate hj
  exact
  { h with
    pool := h.pool
    sessionJobs := fun x hx q hq => by
      rcases List.mem_append.mp hx with hx | hx
      · exact h.sessionJobs x hx q hq
      · rw [List.mem_singleton.mp hx, hn] at hq
        cases hq
    copySources := fun x hx q source' write origin hk => by
      rcases List.mem_append.mp hx with hx | hx
      · exact h.copySources x hx q source' write origin hk
      · rw [List.mem_singleton.mp hx, hj] at hk
        cases hk
    pins := fun pf => by
      have := h.pins pf
      rw [jobReaders_append, jobReaders_cons, hs]
      split
      · next he =>
        cases he
        simp only [jobReaders, List.filter_nil, List.length_nil] at hpins ⊢
        omega
      · simpa [jobReaders] using this
    oneJob := by
      rw [List.filterMap_append, List.filterMap_cons_none hn, List.filterMap_nil, List.append_nil]
      exact h.oneJob
    relocateJobs := fun x hx source' hk => by
      rcases List.mem_append.mp hx with hx | hx
      · exact h.relocateJobs x hx source' hk
      · rw [List.mem_singleton.mp hx] at hk ⊢
        rw [hj] at hk
        cases hk
        exact ⟨hsource, hrel, htarget⟩
    oneRelocation := by
      have : v.jobs.filter Job.isRelocate = [] := List.filter_eq_nil_iff.mpr fun x hx => by simp [hone x hx]
      simp [this, hr] }

/-! ### Sessions -/

/-- A session's record changes, its shadows, its group and whether it is FREE being kept. -/
theorem View.Law.setSession (h : v.Law) {slot : Slot} {r : SessionRec} (hl : r.shadows = (v.session slot).shadows)
    (hg : r.group = (v.session slot).group) (hf : r.state = .free ↔ (v.session slot).state = .free)
    (hjob : ∀ j ∈ v.jobs, j.session? = some slot → r.state = .opened ∧ r.activity = .copying)
    (hwait : ∀ w ∈ v.waits, w.slot = slot → r.state = .opened ∧ r.activity = .parked)
    (hver : v.serving = true → (v.session slot).state = .opened → (v.session slot).activity = .copying →
      r.state = .opened ∧ r.activity = .copying) :
    (v.setSession slot r).Law := by
  have session_of_ne : ∀ q, q ≠ slot → Function.update v.session slot r q = v.session q := fun q hq =>
    Function.update_of_ne hq ..
  have shadows_eq := update_field v.session slot SessionRec.shadows hl
  simp only [View.setSession]
  exact
  { h with
    pool := h.pool
    shadows := fun q => by simpa only [shadows_eq] using h.shadows q
    shadowFrames := fun q => by simpa only [shadows_eq] using h.shadowFrames q
    shadowPages := fun q => by simpa only [shadows_eq] using h.shadowPages q
    freeShadows := fun q hq => by
      simp only [shadows_eq]
      refine h.freeShadows q ?_
      by_cases he : q = slot
      · subst he
        exact hf.mp (by simpa using hq)
      · simpa [he] using hq
    claims := fun page q => by simpa only [shadows_eq] using h.claims page q
    sessionJobs := fun j hj q hq => by
      obtain ⟨ho, ha, he⟩ := h.sessionJobs j hj q hq
      simp only [shadows_eq]
      by_cases hs : q = slot
      · subst hs
        obtain ⟨hro, hra⟩ := hjob j hj hq
        simpa only [Function.update_self] using ⟨hro, hra, he⟩
      · simpa only [session_of_ne q hs] using ⟨ho, ha, he⟩
    waiters := fun w hw => by
      by_cases hs : w.slot = slot
      · simpa only [hs, Function.update_self] using hwait w hw hs
      · simpa only [session_of_ne w.slot hs] using h.waiters w hw
    members := fun g => ⟨(h.members g).1, fun m hm => by
      obtain ⟨hnf, hmg⟩ := (h.members g).2 m hm
      by_cases hs : m = slot
      · subst hs
        simpa only [Function.update_self] using ⟨fun hfree => hnf (hf.mp hfree), hg.trans hmg⟩
      · simpa only [session_of_ne m hs] using ⟨hnf, hmg⟩⟩
    versions := fun page => by
      refine (h.versions page).imp_right fun ⟨hs, hv, hc⟩ => ⟨hs, hv, fun q hq => ?_⟩
      obtain ⟨ho, ha⟩ := hc q hq
      by_cases hqs : q = slot
      · subst hqs
        simpa only [Function.update_self] using hver hs ho ha
      · simpa only [session_of_ne q hqs] using ⟨ho, ha⟩ }

/-- A slot that holds nothing takes any record without shadows. -/
theorem View.Law.setSession_empty (h : v.Law) {slot : Slot} {r : SessionRec} (hold : (v.session slot).shadows = [])
    (hnew : r.shadows = []) (hjob : ∀ j ∈ v.jobs, j.session? ≠ some slot) (hwait : ∀ w ∈ v.waits, w.slot ≠ slot)
    (hmem : ∀ g, slot ∉ v.members g) : (v.setSession slot r).Law := by
  have session_of_ne : ∀ q, q ≠ slot → Function.update v.session slot r q = v.session q := fun q hq =>
    Function.update_of_ne hq ..
  have shadows_eq := update_field v.session slot SessionRec.shadows (hnew.trans hold.symm)
  have hclaim : ∀ page, (v.entry page).claim ≠ some slot := fun page hc => by
    obtain ⟨e, he, -⟩ := (h.claims page slot).mp hc
    simp [hold] at he
  simp only [View.setSession]
  exact
  { h with
    pool := h.pool
    shadows := fun q => by simpa only [shadows_eq] using h.shadows q
    shadowFrames := fun q => by simpa only [shadows_eq] using h.shadowFrames q
    shadowPages := fun q => by simpa only [shadows_eq] using h.shadowPages q
    freeShadows := fun q hq => by
      by_cases he : q = slot
      · rw [shadows_eq, he, hold]
      · simp only [session_of_ne q he] at hq ⊢
        exact h.freeShadows q hq
    claims := fun page q => by simpa only [shadows_eq] using h.claims page q
    sessionJobs := fun j hj q hq => by
      have hne : q ≠ slot := fun he => hjob j hj (he ▸ hq)
      simpa only [session_of_ne q hne] using h.sessionJobs j hj q hq
    waiters := fun w hw => by simpa only [session_of_ne w.slot (hwait w hw)] using h.waiters w hw
    members := fun g => ⟨(h.members g).1, fun m hm => by
      have hne : m ≠ slot := fun he => hmem g (he ▸ hm)
      simpa only [session_of_ne m hne] using (h.members g).2 m hm⟩
    versions := fun page => (h.versions page).imp_right fun ⟨hs, hv, hc⟩ => ⟨hs, hv, fun q hq => by
      have hne : q ≠ slot := fun he => hclaim page (he ▸ hq)
      simpa only [session_of_ne q hne] using hc q hq⟩ }

end

end Sys2Proof.Machine
end

-- ==== What the events of the frames, the claims and the fault log leave alone ====
section
/-! PROOFS. Two relations between the states before and after an operation. `Background`: the operation works on frames,
claims, jobs, waits, shadows and the fault log, and reaches a port by notices alone. `Calm`: it may also answer a request in
service. Both are said once for each operation; what a statement asks of a field is read off them. -/

namespace Sys2Proof.Machine

/-- A port's record before and after notices were queued to it: only notices, overrun and ATTN may differ. -/
structure PortRec.Told (r r' : PortRec) : Prop where
  ready     : r'.ready = r.ready
  credits   : r'.credits = r.credits
  requests  : r'.requests = r.requests
  inService : r'.inService = r.inService
  responses : r'.responses = r.responses
  ferr      : r'.ferr = r.ferr
  cause     : r'.cause = r.cause
  watches   : r'.watches = r.watches
  wire      : r'.wire = r.wire
  sdo       : r'.sdo = r.sdo

theorem PortRec.Told.refl (r : PortRec) : r.Told r := ⟨rfl, rfl, rfl, rfl, rfl, rfl, rfl, rfl, rfl, rfl⟩

theorem PortRec.Told.trans {r r' r'' : PortRec} (h : r.Told r') (h' : r'.Told r'') : r.Told r'' :=
  ⟨h'.ready.trans h.ready, h'.credits.trans h.credits, h'.requests.trans h.requests, h'.inService.trans h.inService,
   h'.responses.trans h.responses, h'.ferr.trans h.ferr, h'.cause.trans h.cause, h'.watches.trans h.watches,
   h'.wire.trans h.wire, h'.sdo.trans h.sdo⟩

/-- The fields of a session's record that only its opening, its budget, its guards, its COMMIT and its end change. -/
def SessionRec.standing (r : SessionRec) :
    SessionState × BitVec 4 × Option PortId × Option GroupIx × Nat × List GuardEntry :=
  (r.state, r.generation, r.port, r.group, r.budget, r.guards)

/-- What an operation on frames, claims, jobs, waits, shadows and the fault log leaves alone. -/
structure State.Background (s t : State) : Prop where
  store       : t.store = s.store
  settings    : t.settings = s.settings
  phase       : t.phase = s.phase
  lastGranted : t.lastGranted = s.lastGranted
  writeBacks  : t.writeBacks = s.writeBacks
  cursor      : t.cursor = s.cursor
  timer       : t.timer = s.timer
  scrub       : t.scrub = s.scrub
  pending     : t.pending = s.pending
  groups      : t.groups = s.groups
  sessions    : ∀ slot, (t.session slot).standing = (s.session slot).standing
  ports       : ∀ q, (s.port q).Told (t.port q)

/-- No page's frame, version or condition changes. -/
def State.SamePages (s t : State) : Prop :=
  ∀ page, (t.entry page).frame = (s.entry page).frame ∧ (t.entry page).version = (s.entry page).version ∧
    (t.entry page).condition = (s.entry page).condition

namespace State.SamePages

theorem refl (s : State) : s.SamePages s := fun _ => ⟨rfl, rfl, rfl⟩

theorem trans {s t u : State} (h : s.SamePages t) (h' : t.SamePages u) : s.SamePages u := fun page =>
  ⟨(h' page).1.trans (h page).1, (h' page).2.1.trans (h page).2.1, (h' page).2.2.trans (h page).2.2⟩

theorem of_map {s t : State} (h : t.map = s.map) : s.SamePages t := fun page => by simp [State.entry, h]

/-- A page's claim or relocating flag changes. -/
theorem setEntry (s : State) (page : LP) {e : MapEntry} (hf : e.frame = (s.entry page).frame)
    (hv : e.version = (s.entry page).version) (hc : e.condition = (s.entry page).condition) :
    s.SamePages (s.setEntry page e) := fun q => by
  rw [State.setEntry_entry]
  split
  · next hq => exact hq ▸ ⟨hf, hv, hc⟩
  · exact ⟨rfl, rfl, rfl⟩

theorem foldl {β : Type} {f : State → β → State} (h : ∀ (t : State) b, t.SamePages (f t b)) (l : List β) (t : State) :
    t.SamePages (l.foldl f t) := by
  induction l generalizing t with
  | nil => exact refl t
  | cons b l ih => exact (h t b).trans (ih _)

end State.SamePages

namespace State.Background

variable {s t u : State}

theorem refl (s : State) : s.Background s where
  store := rfl
  settings := rfl
  phase := rfl
  lastGranted := rfl
  writeBacks := rfl
  cursor := rfl
  timer := rfl
  scrub := rfl
  pending := rfl
  groups := rfl
  sessions _ := rfl
  ports _ := .refl _

theorem trans (h : s.Background t) (h' : t.Background u) : s.Background u where
  store := h'.store.trans h.store
  settings := h'.settings.trans h.settings
  phase := h'.phase.trans h.phase
  lastGranted := h'.lastGranted.trans h.lastGranted
  writeBacks := h'.writeBacks.trans h.writeBacks
  cursor := h'.cursor.trans h.cursor
  timer := h'.timer.trans h.timer
  scrub := h'.scrub.trans h.scrub
  pending := h'.pending.trans h.pending
  groups := h'.groups.trans h.groups
  sessions slot := (h'.sessions slot).trans (h.sessions slot)
  ports q := (h.ports q).trans (h'.ports q)

theorem foldl {β : Type} {f : State → β → State} (h : ∀ (t : State) b, t.Background (f t b)) (l : List β) (t : State) :
    t.Background (l.foldl f t) := by
  induction l generalizing t with
  | nil => exact refl t
  | cons b l ih => exact (h t b).trans (ih _)

/-- The queues behind the requests in service are as they were. -/
theorem queueLaw (h : s.Background t) (hq : s.QueueLaw) : t.QueueLaw := fun q => by
  have := hq q
  simpa only [PortRec.waiting, (h.ports q).inService, (h.ports q).requests] using this

/-- The pins of READs and of the scrub read are as they were. -/
theorem readers (h : s.Background t) : t.readers = s.readers := by
  funext pf
  simp only [State.readers, PortRec.pinned, (h.ports _).inService, h.scrub]

/-- Map entries, frames, the pool, jobs, waits, relocations and the log are the background's own. -/
theorem books (map : Vector MapEntry 256) (waits : List WaitEntry) (frames : Vector FrameRec 512) (pool : List PF)
    (jobs : List Job) (relocations : List LP) (log : List FaultRecord) (nextSeq : BitVec 16) (draws : Nat) :
    s.Background { s with
      map := map, waits := waits, frames := frames, pool := pool, jobs := jobs, relocations := relocations, log := log,
      nextSeq := nextSeq, draws := draws } :=
  { refl s with ports := fun _ => .refl _ }

/-- A session's record changes in what the background works on. -/
theorem setSession (s : State) (slot : Slot) {r : SessionRec} (h : r.standing = (s.session slot).standing) :
    s.Background (s.setSession slot r) :=
  { refl s with
    sessions := fun q => by
      rw [State.setSession_session]
      split
      · next hq => exact hq ▸ h
      · rfl
    ports := fun _ => .refl _ }

theorem modifySession (s : State) (slot : Slot) {f : SessionRec → SessionRec}
    (h : (f (s.session slot)).standing = (s.session slot).standing) : s.Background (Machine.modifySession slot f s) :=
  setSession s slot h

end State.Background

section
variable (s : State)

/-! ### Notices and the fault log -/

theorem queueNotice_background (p : PortId) (body : NoticeBody) : s.Background (queueNotice p body s) := by
  have hports : ∀ q, (s.port q).Told ((queueNotice p body s).port q) := fun q => by
    simp only [queueNotice]
    split <;> rw [State.setPort_port] <;> split
    · next hq => exact hq ▸ ⟨rfl, rfl, rfl, rfl, rfl, rfl, rfl, rfl, rfl, rfl⟩
    · exact .refl _
    · next hq => exact hq ▸ ⟨rfl, rfl, rfl, rfl, rfl, rfl, rfl, rfl, rfl, rfl⟩
    · exact .refl _
  refine ⟨?_, ?_, ?_, ?_, ?_, ?_, ?_, ?_, ?_, ?_, ?_, hports⟩ <;> simp

theorem faultNotices_background (seq : BitVec 16) (kind : FaultKind) : s.Background (faultNotices seq kind s) :=
  .foldl (fun t p => by
    split
    · exact queueNotice_background ..
    · exact .refl _) _ _

theorem appendRecord_background (kind : FaultKind) (pf : PF) (word : Option WordIx) (syn : Option Syndrome)
    (context : Option ReadContext) (page : Option LP) (handle : Option Handle) :
    s.Background (appendRecord kind pf word syn context page handle s) :=
  (State.Background.books s.map s.waits s.frames s.pool s.jobs s.relocations _ _ s.draws).trans
    (faultNotices_background _ _ _)

theorem noticeToOwner_background (slot : Slot) (body : NoticeBody) : s.Background (noticeToOwner slot body s) := by
  simp only [noticeToOwner]
  split
  · exact .refl _
  · exact queueNotice_background ..

theorem noticeToOwner_map (slot : Slot) (body : NoticeBody) : (noticeToOwner slot body s).map = s.map := by
  simp only [noticeToOwner]
  split <;> simp

/-! ### Frames -/

theorem setFrame_background (pf : PF) (f : FrameRec) : s.Background (s.setFrame pf f) :=
  .books s.map s.waits _ s.pool s.jobs s.relocations s.log s.nextSeq s.draws

theorem setEntry_background (page : LP) (e : MapEntry) : s.Background (s.setEntry page e) :=
  .books _ s.waits s.frames s.pool s.jobs s.relocations s.log s.nextSeq s.draws

theorem retireFrame_background (pf : PF) : s.Background (retireFrame pf s) :=
  (setFrame_background s pf _).trans (appendRecord_background ..)

theorem freeFrame_background (pf : PF) : s.Background (freeFrame pf s) :=
  .books s.map s.waits _ _ s.jobs s.relocations s.log s.nextSeq s.draws

theorem releaseFrame_background (pf : PF) : s.Background (releaseFrame pf s) := by
  simp only [releaseFrame]
  split
  · split
    · exact setFrame_background ..
    · split
      · exact retireFrame_background ..
      · exact freeFrame_background ..
  · exact .refl _

theorem unpinFrame_background (pf : PF) : s.Background (unpinFrame pf s) := by
  refine (setFrame_background s pf { s.frame pf with pins := (s.frame pf).pins - 1 }).trans ?_
  simp only [unpinFrame]
  split
  · split
    · exact retireFrame_background ..
    · exact freeFrame_background ..
  · exact .refl _

theorem unpinAll_background (pfs : List PF) : s.Background (unpinAll pfs s) :=
  .foldl (fun t pf => unpinFrame_background t pf) _ _

theorem mapFrame_background (pf : PF) (page : LP) : s.Background (mapFrame pf page s) := by
  simp only [mapFrame]
  split
  · exact setFrame_background ..
  · exact .refl _

/-! ### Jobs and relocations -/

theorem jobs_background (jobs : List Job) : s.Background { s with jobs := jobs } :=
  .books s.map s.waits s.frames s.pool jobs s.relocations s.log s.nextSeq s.draws

theorem cancelSessionJob_background (slot : Slot) : s.Background (cancelSessionJob slot s) := by
  simp only [cancelSessionJob]
  split
  · exact .refl _
  · split
    · exact jobs_background ..
    · exact (jobs_background s _).trans (unpinFrame_background ..)

theorem abandonRelocation_background (page : LP) : s.Background (abandonRelocation page s) := by
  simp only [abandonRelocation]
  refine .trans ?_ (setEntry_background ..)
  split
  · exact .refl _
  · refine .trans ?_ (releaseFrame_background ..)
    split
    · exact jobs_background ..
    · exact (jobs_background s _).trans (unpinFrame_background ..)

theorem abandonRelocation_samePages (page : LP) : s.SamePages (abandonRelocation page s) := by
  simp only [abandonRelocation]
  refine .trans ?_ (.setEntry _ page rfl rfl rfl)
  split
  · exact .refl _
  · refine .of_map ?_
    rw [(releaseFrame_frame ..).2.1]
    split
    · rfl
    · rw [(unpinFrame_frame ..).2.1]

theorem unlistRelocation_background (page : LP) : s.Background (unlistRelocation page s) :=
  .books s.map s.waits s.frames s.pool s.jobs _ s.log s.nextSeq s.draws

theorem startRelocation_background : s.Background (startRelocation s) := by
  simp only [startRelocation]
  split
  · exact .refl _
  · simp only [allocate]
    split
    · exact .refl _
    · next h =>
      split at h
      · cases h
      · cases h
        exact .books _ s.waits _ _ _ _ s.log s.nextSeq s.draws

theorem startRelocation_samePages : s.SamePages (startRelocation s) := by
  simp only [startRelocation]
  split
  · exact .refl _
  · split
    · exact .refl _
    · next page _ _ target t ha =>
      have hmap : t.map = s.map := by
        simp only [allocate] at ha
        split at ha
        · cases ha
        · cases ha; rfl
      exact (State.SamePages.of_map hmap).trans (.setEntry t page rfl rfl rfl)

/-! ### Claims and waits -/

/-- A session with the claim of a page, the pool's head as its shadow, waiting for the job that fills it (R65, R85). -/
def claimed (slot : Slot) (page : LP) (pf : PF) (rest : List PF) (s : State) : State :=
  State.setSession
    (State.setEntry
      { s.setFrame pf { s.frame pf with state := .shadow, owner := some (.session slot) } with pool := rest }
      page { s.entry page with claim := some slot })
    slot
    { s.session slot with
      shadows := (s.session slot).shadows ++ [⟨page, pf, decide ((s.entry page).condition = .poisoned)⟩]
      activity := .copying }

/-- What takeClaim answers: nothing at an empty pool; else the claim with a ZERO job for a POISONED page, and with a COPY job
and its source pinned for any other (R64, R65). -/
theorem takeClaim_eq (slot : Slot) (page : LP) (write : PendingWrite) (origin : Origin) :
    takeClaim slot page write origin s =
      match s.pool with
      | [] => none
      | pf :: rest =>
        some (if (s.entry page).condition = .poisoned then
          queueJob (.zero slot write origin) page pf (claimed slot page pf rest s)
        else
          pinFrame (s.entry page).frame
            (queueJob (.copy slot (s.entry page).frame write origin) page pf (claimed slot page pf rest s))) := by
  simp only [takeClaim, allocate]
  cases s.pool with
  | nil => rfl
  | cons pf rest =>
    by_cases h : (s.entry page).condition = .poisoned
    · simp only [if_pos h, if_pos (decide_eq_true h)]
      rfl
    · simp only [if_neg h, if_neg (mt of_decide_eq_true h)]
      rfl

theorem takeClaim_background {t : State} {slot : Slot} {page : LP} {write : PendingWrite} {origin : Origin}
    (h : takeClaim slot page write origin s = some t) : s.Background t ∧ s.SamePages t := by
  have hclaimed : ∀ pf rest, s.Background (claimed slot page pf rest s) := fun pf rest =>
    (State.Background.books _ s.waits _ rest s.jobs s.relocations s.log s.nextSeq s.draws).trans (.setSession _ slot rfl)
  have hpages : ∀ pf rest, s.SamePages (claimed slot page pf rest s) := fun pf rest => .setEntry s page rfl rfl rfl
  rw [takeClaim_eq] at h
  split at h
  · cases h
  · next pf rest _ =>
    cases h
    split
    · exact ⟨(hclaimed pf rest).trans (jobs_background ..), hpages pf rest⟩
    · exact ⟨(hclaimed pf rest).trans ((jobs_background ..).trans (setFrame_background ..)), hpages pf rest⟩

theorem endWait_background (slot : Slot) : s.Background (endWait slot s) :=
  (State.Background.books s.map _ s.frames s.pool s.jobs s.relocations s.log s.nextSeq s.draws).trans
    (.modifySession _ slot rfl)

theorem offerDown_background (page : LP) (n : Nat) : s.Background (offerDown page n s) ∧ s.SamePages (offerDown page n s) := by
  induction n generalizing s with
  | zero => exact ⟨.refl _, .refl _⟩
  | succ n ih =>
    rw [offerDown]
    split
    · exact ⟨.refl _, .refl _⟩
    · have hpages : s.SamePages (endWait ‹Slot› s) := .of_map rfl
      split
      · next h =>
        obtain ⟨hb, hp⟩ := takeClaim_background _ h
        exact ⟨(endWait_background ..).trans hb, hpages.trans hp⟩
      · obtain ⟨hb, hp⟩ := ih (noticeToOwner _ _ (endWait _ s))
        exact ⟨(endWait_background ..).trans ((noticeToOwner_background ..).trans hb),
          hpages.trans ((State.SamePages.of_map (noticeToOwner_map ..)).trans hp)⟩

theorem offerClaim_background (page : LP) : s.Background (offerClaim page s) := (offerDown_background s page _).1

theorem offerClaim_samePages (page : LP) : s.SamePages (offerClaim page s) := (offerDown_background s page _).2

theorem abortWait_background (slot : Slot) : s.Background (abortWait slot s) := by
  simp only [abortWait]
  split
  · exact endWait_background ..
  · exact .refl _

theorem dropShadow_background (e : ShadowEntry) : s.Background (dropShadow e s) :=
  (setEntry_background ..).trans (releaseFrame_background ..)

theorem dropShadow_samePages (e : ShadowEntry) : s.SamePages (dropShadow e s) :=
  (State.SamePages.setEntry s e.page (e := { s.entry e.page with claim := none }) rfl rfl rfl).trans
    (.of_map (releaseFrame_frame ..).2.1)

/-! ### The apply -/

theorem notifyWatchers_background (page : LP) (handle : Handle) : s.Background (notifyWatchers page handle s) :=
  .foldl (fun t p => by
    split
    · exact queueNotice_background ..
    · exact .refl _) _ _

theorem notifyWatchers_map (page : LP) (handle : Handle) : (notifyWatchers page handle s).map = s.map :=
  foldl_keeps State.map _ (fun t p => by split <;> simp) _ _

theorem offerApplied_background (handle : Handle) (e : ShadowEntry) : s.Background (offerApplied handle e s) :=
  (offerClaim_background ..).trans (notifyWatchers_background ..)

theorem offerApplied_samePages (handle : Handle) (e : ShadowEntry) : s.SamePages (offerApplied handle e s) :=
  (offerClaim_samePages s e.page).trans (.of_map (notifyWatchers_map ..))

theorem switchEntry_background (e : ShadowEntry) : s.Background (switchEntry e s) := by
  simp only [switchEntry]
  refine .trans ?_ ((setEntry_background ..).trans ((mapFrame_background ..).trans (releaseFrame_background ..)))
  split
  · exact abandonRelocation_background ..
  · exact unlistRelocation_background ..

theorem applyPages_background (members : List Slot) : s.Background (applyPages members s) :=
  (State.Background.foldl (fun t (w : Handle × ShadowEntry) => switchEntry_background t w.2) _ _).trans
    (.foldl (fun t (w : Handle × ShadowEntry) => offerApplied_background t w.1 w.2) _ _)

/-! ### Detections -/

theorem uncorrectableRecord_background (pf : PF) (k : WordIx) (syn : Syndrome) (context : ReadContext) :
    s.Background (uncorrectableRecord pf k syn context s) :=
  (appendRecord_background ..).trans (setFrame_background ..)

end

/-! ### Operations that may also answer a request in service -/

/-- No port's wire is touched. -/
def State.SameWires (s t : State) : Prop := ∀ q, (t.port q).wire = (s.port q).wire ∧ (t.port q).sdo = (s.port q).sdo

theorem State.SameWires.trans {s t u : State} (h : s.SameWires t) (h' : t.SameWires u) : s.SameWires u := fun q =>
  ⟨(h' q).1.trans (h q).1, (h' q).2.trans (h q).2⟩

/-- What an event that ends no session leaves alone, at every port and at every session. -/
structure State.Calm (s t : State) : Prop where
  others : s.KeepsOthers t (fun _ => False) (fun _ => False)
  groups : t.groups = s.groups
  pages  : s.SamePages t
  wires  : s.SameWires t

namespace State.KeepsOthers

variable {s t u : State} {ended ended' : Slot → Prop} {cleared cleared' : PortId → Prop}

theorem trans (h : s.KeepsOthers t ended cleared) (h' : t.KeepsOthers u ended cleared) : s.KeepsOthers u ended cleared where
  store := h'.store.trans h.store
  settings := h'.settings.trans h.settings
  phase := h'.phase.trans h.phase
  lastGranted := h'.lastGranted.trans h.lastGranted
  writeBacks := h'.writeBacks.trans h.writeBacks
  cursor := h'.cursor.trans h.cursor
  timer := h'.timer.trans h.timer
  scrub := h'.scrub.trans h.scrub
  pending := h'.pending.trans h.pending
  sessions slot hs := by
    obtain ⟨h1, h2, h3, h4, h5, h6⟩ := h.sessions slot hs
    obtain ⟨h1', h2', h3', h4', h5', h6'⟩ := h'.sessions slot hs
    exact ⟨h1'.trans h1, h2'.trans h2, h3'.trans h3, h4'.trans h4, h5'.trans h5, h6'.trans h6⟩
  ports q hq := by
    obtain ⟨h1, h2, h3, h4, h5⟩ := h.ports q hq
    obtain ⟨h1', h2', h3', h4', h5'⟩ := h'.ports q hq
    exact ⟨h1'.trans h1, h2'.trans h2, h3'.trans h3, h4'.trans h4, h5'.trans h5⟩

theorem mono (h : s.KeepsOthers t ended cleared) (he : ∀ slot, ended slot → ended' slot)
    (hc : ∀ q, cleared q → cleared' q) : s.KeepsOthers t ended' cleared' :=
  { h with
    sessions := fun slot hs => h.sessions slot fun h => hs (he slot h)
    ports := fun q hq => h.ports q fun h => hq (hc q h) }

end State.KeepsOthers

namespace State.Calm

variable {s t u : State}

theorem trans (h : s.Calm t) (h' : t.Calm u) : s.Calm u :=
  ⟨h.others.trans h'.others, h'.groups.trans h.groups, h.pages.trans h'.pages, h.wires.trans h'.wires⟩

theorem keepsOthers (h : s.Calm t) {ended : Slot → Prop} {cleared : PortId → Prop} : s.KeepsOthers t ended cleared :=
  h.others.mono (fun _ => False.elim) (fun _ => False.elim)

end State.Calm

/-- The background is calm. -/
theorem State.Background.keepsOthers {s t : State} (h : s.Background t) {ended : Slot → Prop} {cleared : PortId → Prop} :
    s.KeepsOthers t ended cleared where
  store := h.store
  settings := h.settings
  phase := h.phase
  lastGranted := h.lastGranted
  writeBacks := h.writeBacks
  cursor := h.cursor
  timer := h.timer
  scrub := h.scrub
  pending := h.pending
  sessions slot _ := by simpa only [SessionRec.standing, Prod.mk.injEq] using h.sessions slot
  ports q _ := ⟨(h.ports q).ready, (h.ports q).requests, (h.ports q).watches, (h.ports q).ferr, (h.ports q).cause⟩

theorem State.Background.calm {s t : State} (h : s.Background t) (hp : s.SamePages t) : s.Calm t :=
  ⟨h.keepsOthers, h.groups, hp, fun q => ⟨(h.ports q).wire, (h.ports q).sdo⟩⟩

section
variable (s : State)

/-- A port's record changes in its credits, its request in service, its responses, its notices. -/
theorem setPort_calm (p : PortId) {r : PortRec} (hready : r.ready = (s.port p).ready)
    (hrequests : r.requests = (s.port p).requests) (hwatches : r.watches = (s.port p).watches)
    (hferr : r.ferr = (s.port p).ferr) (hcause : r.cause = (s.port p).cause) (hwire : r.wire = (s.port p).wire)
    (hsdo : r.sdo = (s.port p).sdo) : s.Calm (s.setPort p r) where
  others :=
    { (State.Background.refl s).keepsOthers (cleared := fun _ => False) with
      ports := fun q _ => by
        rw [State.setPort_port]
        split
        · next hq => exact hq ▸ ⟨hready, hrequests, hwatches, hferr, hcause⟩
        · exact ⟨rfl, rfl, rfl, rfl, rfl⟩ }
  groups := rfl
  pages := .refl _
  wires q := by
    rw [State.setPort_port]
    split
    · next hq => exact hq ▸ ⟨hwire, hsdo⟩
    · exact ⟨rfl, rfl⟩

theorem calm_refl : s.Calm s := (State.Background.refl s).calm (.refl s)

theorem respond_calm (p : PortId) (a : Answer) : s.Calm (respond p a s) := by
  simp only [respond]
  split
  · exact calm_refl s
  · exact setPort_calm s p rfl rfl rfl rfl rfl rfl rfl

theorem setService_calm (p : PortId) (session : Option Slot) (stage : Stage) : s.Calm (setService p session stage s) := by
  simp only [setService]
  split
  · exact calm_refl s
  · exact setPort_calm s p rfl rfl rfl rfl rfl rfl rfl

theorem unpinAll_calm (pfs : List PF) : s.Calm (unpinAll pfs s) :=
  (unpinAll_background s pfs).calm (.of_map (unpinAll_frame s pfs).2.1)

theorem stopService_calm (p : PortId) (r : InService) : s.Calm (stopService p r s) := by
  simp only [stopService]
  split
  · exact calm_refl s
  · exact (setService_calm s p _ _).trans (unpinAll_calm _ _)
  · exact setService_calm s p _ _
  · exact setService_calm s p _ _

theorem queueNotice_calm (p : PortId) (body : NoticeBody) : s.Calm (queueNotice p body s) :=
  (queueNotice_background s p body).calm (.of_map (queueNotice_frame s p body).2.1)

/-! ### Aborts -/

theorem abortService_calm (slot : Slot) : s.Calm (abortService slot s) := by
  simp only [abortService]
  split
  · exact calm_refl s
  · split
    · exact calm_refl s
    · exact stopService_calm ..

theorem abortReport_calm (slot : Slot) (reason : AbortReason) : s.Calm (abortReport slot reason s) := by
  simp only [abortReport]
  split
  · exact calm_refl s
  · split
    · exact calm_refl s
    · exact respond_calm ..
    · split
      · exact respond_calm ..
      · exact queueNotice_calm ..

/-- What an abort does between the stop of the request in service and the report: the session's job, wait, shadows and claims
go, and the claims are offered to the waiters (steps 2 to 5 of R48). -/
def withdraw (slot : Slot) (shadows : List ShadowEntry) (s : State) : State :=
  shadows.foldl (fun t e => offerClaim e.page t)
    (shadows.foldl (fun t e => dropShadow e t) (abortWait slot (cancelSessionJob slot s)))

theorem abortHold_eq (slot : Slot) (reason : AbortReason) :
    abortHold slot reason s = abortReport slot reason (modifySession slot (fun r => { r with guards := [] })
      (withdraw slot (s.session slot).shadows (abortService slot s))) := rfl

theorem withdraw_background (slot : Slot) (shadows : List ShadowEntry) : s.Background (withdraw slot shadows s) :=
  ((cancelSessionJob_background s slot).trans (abortWait_background _ slot)).trans
    ((State.Background.foldl (fun t e => dropShadow_background t e) shadows _).trans
      (.foldl (fun t (e : ShadowEntry) => offerClaim_background t e.page) shadows _))

theorem withdraw_samePages (slot : Slot) (shadows : List ShadowEntry) : s.SamePages (withdraw slot shadows s) := by
  have hcancel : s.SamePages (cancelSessionJob slot s) := .of_map (cancelSessionJob_frame s slot).2.1
  have hwait : (cancelSessionJob slot s).SamePages (abortWait slot (cancelSessionJob slot s)) := .of_map (by
    simp only [abortWait]
    split <;> rfl)
  exact (hcancel.trans hwait).trans
    ((State.SamePages.foldl (fun t e => dropShadow_samePages t e) shadows _).trans
      (.foldl (fun t (e : ShadowEntry) => offerClaim_samePages t e.page) shadows _))

theorem withdraw_calm (slot : Slot) (shadows : List ShadowEntry) : s.Calm (withdraw slot shadows s) :=
  (withdraw_background s slot shadows).calm (withdraw_samePages s slot shadows)

end

/-- An operation that changes the guards, or everything but the generation, of one session alone. -/
theorem modifySession_keepsOthers (s : State) (slot : Slot) (f : SessionRec → SessionRec) {cleared : PortId → Prop} :
    s.KeepsOthers (modifySession slot f s) (· = slot) cleared :=
  { (State.Background.refl s).keepsOthers (ended := fun x => x = slot) (cleared := cleared) with
    sessions := fun q hq => by
      rw [modifySession, State.setSession_session_of_ne s _ hq]
      exact ⟨rfl, rfl, rfl, rfl, rfl, rfl⟩ }

/-- An abort's hold ends no session but its own, and no port is cleared; groups and pages are left alone. -/
theorem abortHold_keeps (s : State) (slot : Slot) (reason : AbortReason) :
    s.KeepsOthers (abortHold slot reason s) (· = slot) (fun _ => False) ∧ (abortHold slot reason s).groups = s.groups ∧
      s.SamePages (abortHold slot reason s) ∧ s.SameWires (abortHold slot reason s) ∧
      ((abortHold slot reason s).session slot).generation = (s.session slot).generation := by
  rw [abortHold_eq]
  have h1 := (abortService_calm s slot).trans (withdraw_calm _ slot (s.session slot).shadows)
  have h2 := abortReport_calm (modifySession slot (fun r => { r with guards := [] })
    (withdraw slot (s.session slot).shadows (abortService slot s))) slot reason
  refine ⟨h1.keepsOthers.trans ((modifySession_keepsOthers _ _ _).trans h2.keepsOthers), h2.groups.trans h1.groups,
    h1.pages.trans ((State.SamePages.of_map rfl).trans h2.pages),
    State.SameWires.trans h1.wires h2.wires, ?_⟩
  have hmodify : ∀ t : State, ((modifySession slot (fun r => { r with guards := [] }) t).session slot).generation =
      (t.session slot).generation := fun t => by simp [modifySession]
  rw [(h2.others.sessions slot id).2.1, hmodify, (h1.others.sessions slot id).2.1]

end Sys2Proof.Machine
end

-- ==== The page map law through the operations on frames, jobs, claims and sessions ====
section
/-! PROOFS. The page map law within an event. A *scope* says how far the event has come: which sessions are ending, so that
their stale records count as FREE or as holding the shadows not yet dropped; which group is dissolving; whether requests are
being served. Each operation keeps the law in the scope it is used in. -/

namespace Sys2Proof.Machine

/-- How the law reads a state in the midst of an event. -/
structure Scope where
  origin  : LP → BitVec 16
  serving : Bool
  session : Slot → SessionRec → SessionRec
  gone    : Option GroupIx

/-- The view of a state in a scope. -/
def State.viewIn (s : State) (c : Scope) (readers : PF → Nat) : View where
  entry := s.entry
  frame := s.frame
  pool := s.pool
  session := fun slot => c.session slot (s.session slot)
  members := fun g => if c.gone = some g then [] else (s.group g).members
  jobs := s.jobs
  waits := s.waits
  readers := readers
  origin := c.origin
  serving := c.serving

/-- The page map law in a scope. -/
def State.LawIn (s : State) (c : Scope) : Prop := (s.viewIn c s.readers).Law

/-- The scope in which every record counts as it stands. -/
def Scope.plain (origin : LP → BitVec 16) (serving : Bool) : Scope := ⟨origin, serving, fun _ => id, none⟩

/-- Sessions that are ending count as FREE. -/
def Scope.ends (c : Scope) (slots : List Slot) : Scope :=
  { c with session := fun slot => if slot ∈ slots then SessionRec.ended else c.session slot }

/-- An ending session counts as holding the shadows that it has not dropped yet. -/
def Scope.holds (c : Scope) (slot : Slot) (shadows : List ShadowEntry) : Scope :=
  { c with session := Function.update c.session slot fun r => { r with shadows := shadows } }

/-- Every record counts as it stands or as FREE. -/
def Scope.Ending (c : Scope) : Prop := ∀ slot, c.session slot = id ∨ c.session slot = SessionRec.ended

theorem Scope.plain_ending (origin : LP → BitVec 16) (serving : Bool) : (Scope.plain origin serving).Ending :=
  fun _ => .inl rfl

theorem Scope.Ending.ends {c : Scope} (h : c.Ending) (slots : List Slot) : (c.ends slots).Ending := fun slot => by
  simp only [Scope.ends]
  split
  · exact .inr rfl
  · exact h slot

theorem Scope.ends_ends (c : Scope) {l l' l'' : List Slot} (h : ∀ x, x ∈ l'' ↔ x ∈ l ∨ x ∈ l') :
    (c.ends l).ends l' = c.ends l'' := by
  simp only [Scope.ends, Scope.mk.injEq, true_and, and_true]
  funext x
  by_cases hl : x ∈ l <;> by_cases hl' : x ∈ l' <;> simp [h, hl, hl']

/-- The operations that hold a pin on a frame are the READs, the scrub read and the jobs. -/
theorem State.holders_eq (s : State) (pf : PF) : s.holders pf = s.readers pf + jobReaders s.jobs pf := by
  simp only [State.holders, State.readers, jobReaders]
  omega

/-- At the start of an event the law of the state and the law in the plain scope are one. -/
theorem State.PageMapLaw.lawIn {s : State} (h : s.PageMapLaw) (serving : Bool) :
    s.LawIn (.plain (fun page => (s.entry page).version) serving) :=
  { h with
    pool := h.pool
    pins := fun pf => s.holders_eq pf ▸ h.pins pf
    members := h.members
    versions := fun _ => .inl rfl }

/-- At the end of an event the law in the plain scope gives the law of the state. -/
theorem State.LawIn.pageMapLaw {s : State} {origin : LP → BitVec 16} {serving : Bool}
    (h : s.LawIn (.plain origin serving)) : s.PageMapLaw :=
  { h with
    pool := h.pool
    pins := fun pf => (s.holders_eq pf).symm ▸ h.pins pf
    members := h.members }

/-- Before requests are served no version has stepped. -/
theorem State.LawIn.serve {s : State} {c : Scope} (h : s.LawIn c) : s.LawIn { c with serving := true } :=
  { h with
    pool := h.pool
    versions := fun page => (h.versions page).imp_right fun hv => ⟨rfl, hv.2⟩ }

section
variable {s t : State} {c : Scope} {readers : PF → Nat}

/-- The view reads eight fields of the state. -/
theorem viewIn_congr (hmap : t.map = s.map) (hframes : t.frames = s.frames) (hpool : t.pool = s.pool)
    (hsessions : t.sessions = s.sessions) (hgroups : t.groups = s.groups) (hjobs : t.jobs = s.jobs)
    (hwaits : t.waits = s.waits) : t.viewIn c readers = s.viewIn c readers := by
  simp only [State.viewIn, hpool, hjobs, hwaits, View.mk.injEq, and_true, true_and]
  exact ⟨by funext; simp [State.entry, hmap], by funext; simp [State.frame, hframes],
    by funext; simp [State.session, hsessions], by funext; simp [State.group, hgroups]⟩

/-- The law of a state whose view is that of a lawful one, with no more readers. -/
theorem State.LawIn.of_view (h : s.LawIn c) (hv : t.viewIn c t.readers = s.viewIn c t.readers)
    (hr : ∀ pf, t.readers pf ≤ s.readers pf) : t.LawIn c := by
  rw [State.LawIn, hv]
  exact View.Law.readers_le h hr

/-- A background operation that leaves the view alone keeps the law. -/
theorem State.LawIn.of_background (h : s.LawIn c) (hb : s.Background t)
    (hv : t.viewIn c t.readers = s.viewIn c t.readers) : t.LawIn c :=
  h.of_view hv fun pf => le_of_eq (congrFun hb.readers pf)

/-! ### Ports, notices and the log -/

variable (s c readers)

@[simp] theorem queueNotice_viewIn (p : PortId) (body : NoticeBody) :
    (queueNotice p body s).viewIn c readers = s.viewIn c readers := by apply viewIn_congr <;> simp

@[simp] theorem respond_viewIn (p : PortId) (a : Answer) : (respond p a s).viewIn c readers = s.viewIn c readers := by
  apply viewIn_congr <;> simp

@[simp] theorem setService_viewIn (p : PortId) (session : Option Slot) (stage : Stage) :
    (setService p session stage s).viewIn c readers = s.viewIn c readers := by apply viewIn_congr <;> simp

@[simp] theorem appendRecord_viewIn (kind : FaultKind) (pf : PF) (word : Option WordIx) (syn : Option Syndrome)
    (context : Option ReadContext) (page : Option LP) (handle : Option Handle) :
    (appendRecord kind pf word syn context page handle s).viewIn c readers = s.viewIn c readers := by
  apply viewIn_congr <;> simp

@[simp] theorem noticeToOwner_viewIn (slot : Slot) (body : NoticeBody) :
    (noticeToOwner slot body s).viewIn c readers = s.viewIn c readers := by
  simp only [noticeToOwner]
  split <;> simp

theorem notifyWatchers_viewIn (page : LP) (handle : Handle) :
    (notifyWatchers page handle s).viewIn c readers = s.viewIn c readers :=
  foldl_keeps (fun t : State => t.viewIn c readers) _ (fun t p => by split <;> simp) _ _

/-- The READs' pins after a port's record was replaced by one whose READ pins no more. -/
theorem setPort_readers_le {p : PortId} {r : PortRec} (h : ∀ pf, r.pinned.count pf ≤ (s.port p).pinned.count pf) (pf : PF) :
    (s.setPort p r).readers pf ≤ s.readers pf := by
  have := s.setPort_holders pf p r
  rw [State.holders_eq, State.holders_eq] at this
  have := h pf
  simp only [State.setPort_jobs] at *
  omega

theorem PortRec.pinned_of_none {r : PortRec} (h : r.inService = none) : r.pinned = [] := by simp [PortRec.pinned, h]

theorem respond_readers_le (p : PortId) (a : Answer) (pf : PF) : (respond p a s).readers pf ≤ s.readers pf := by
  simp only [respond]
  split
  · exact le_refl _
  · exact setPort_readers_le s (fun q => by rw [PortRec.pinned_of_none rfl]; exact Nat.zero_le _) pf

/-- The frames that a stage of service pins. -/
def Stage.pins : Stage → List PF
  | .reading pins _ _ => pins
  | .atOnce | .placing _ _ _ _ | .copying => []

theorem PortRec.pinned_eq (r : PortRec) : r.pinned = (r.inService.map fun x => x.stage.pins).getD [] := by
  simp only [PortRec.pinned]
  split
  · next h => simp [h, Stage.pins]
  · next h =>
    cases hs : r.inService with
    | none => rfl
    | some x =>
      obtain ⟨request, session, stage⟩ := x
      cases stage with
      | reading pins todo data => exact absurd hs fun hs => h _ _ _ _ _ hs
      | _ => rfl

/-- A new stage of the request in service changes the readers by the pins of the two stages. -/
theorem setService_readers {p : PortId} {r : InService} (h : (s.port p).inService = some r) (session : Option Slot)
    (stage : Stage) (pf : PF) :
    (setService p session stage s).readers pf + r.stage.pins.count pf = s.readers pf + stage.pins.count pf := by
  have hp := s.setPort_holders pf p { s.port p with inService := some { r with session := session, stage := stage } }
  simp only [PortRec.pinned_eq, h, Option.map_some, Option.getD_some, State.holders_eq, State.setPort_jobs] at hp
  simp only [setService, h]
  omega

theorem setService_readers_none {p : PortId} (h : (s.port p).inService = none) (session : Option Slot) (stage : Stage) :
    setService p session stage s = s := by simp only [setService, h]

/-- A stage without pins leaves no more readers. -/
theorem setService_readers_le (p : PortId) (session : Option Slot) {stage : Stage} (hs : stage.pins = []) (pf : PF) :
    (setService p session stage s).readers pf ≤ s.readers pf := by
  cases h : (s.port p).inService with
  | none => rw [setService_readers_none s h]
  | some r =>
    have := setService_readers s h session stage pf
    rw [hs, List.count_nil] at this
    omega

variable {s c readers}

theorem State.LawIn.queueNotice (h : s.LawIn c) (p : PortId) (body : NoticeBody) : (queueNotice p body s).LawIn c :=
  h.of_background (queueNotice_background s p body) (queueNotice_viewIn ..)

theorem State.LawIn.respond (h : s.LawIn c) (p : PortId) (a : Answer) : (respond p a s).LawIn c :=
  h.of_view (respond_viewIn ..) (respond_readers_le s p a)

theorem State.LawIn.setService (h : s.LawIn c) (p : PortId) (session : Option Slot) {stage : Stage}
    (hs : stage.pins = []) : (setService p session stage s).LawIn c :=
  h.of_view (setService_viewIn ..) (setService_readers_le s p session hs)

theorem State.LawIn.setPort (h : s.LawIn c) {p : PortId} {r : PortRec}
    (hr : ∀ pf, r.pinned.count pf ≤ (s.port p).pinned.count pf) : (s.setPort p r).LawIn c :=
  h.of_view rfl (setPort_readers_le s hr)

theorem State.LawIn.noticeToOwner (h : s.LawIn c) (slot : Slot) (body : NoticeBody) :
    (noticeToOwner slot body s).LawIn c :=
  h.of_background (noticeToOwner_background s slot body) (noticeToOwner_viewIn ..)

theorem State.LawIn.notifyWatchers (h : s.LawIn c) (page : LP) (handle : Handle) :
    (notifyWatchers page handle s).LawIn c :=
  h.of_background (notifyWatchers_background s page handle) (notifyWatchers_viewIn ..)

/-! ### Frames -/

theorem setFrame_frame_eq_update (s : State) (pf : PF) (f : FrameRec) :
    (s.setFrame pf f).frame = Function.update s.frame pf f := by
  funext q
  rw [State.setFrame_frame, Function.update_apply]

theorem setEntry_entry_eq_update (s : State) (page : LP) (e : MapEntry) :
    (s.setEntry page e).entry = Function.update s.entry page e := by
  funext q
  rw [State.setEntry_entry, Function.update_apply]

theorem setFrame_viewIn (s : State) (c : Scope) (readers : PF → Nat) (pf : PF) (f : FrameRec) :
    (s.setFrame pf f).viewIn c readers = { s.viewIn c readers with frame := Function.update s.frame pf f } := by
  rw [← setFrame_frame_eq_update]
  rfl

theorem setEntry_viewIn (s : State) (c : Scope) (readers : PF → Nat) (page : LP) (e : MapEntry) :
    (s.setEntry page e).viewIn c readers = (s.viewIn c readers).setEntry page e := by
  rw [View.setEntry]
  show _ = { s.viewIn c readers with entry := Function.update s.entry page e }
  rw [← setEntry_entry_eq_update]
  rfl

/-- A frame's record is replaced by one that is FREE only if it was. -/
theorem setFrame_viewIn_of_not_freed (s : State) (c : Scope) (readers : PF → Nat) {pf : PF} {f : FrameRec}
    (hf : f.state = .free → (s.frame pf).state = .free) :
    (s.setFrame pf f).viewIn c readers = (s.viewIn c readers).setFrame pf f := by
  have hno : ¬ ((s.frame pf).state ≠ .free ∧ f.state = .free) := fun h => h.1 (hf h.2)
  rw [setFrame_viewIn, View.setFrame]
  show _ = { s.viewIn c readers with
    frame := Function.update s.frame pf f
    pool := if (s.frame pf).state ≠ FrameState.free ∧ f.state = FrameState.free then s.pool ++ [pf] else s.pool }
  rw [if_neg hno]
  rfl

theorem retireFrame_viewIn (s : State) (c : Scope) (readers : PF → Nat) (pf : PF) :
    (retireFrame pf s).viewIn c readers =
      (s.viewIn c readers).setFrame pf { s.frame pf with state := .retired, owner := none } := by
  rw [retireFrame, appendRecord_viewIn, setFrame_viewIn_of_not_freed]
  nofun

theorem freeFrame_viewIn (s : State) (c : Scope) (readers : PF → Nat) {pf : PF} (hf : (s.frame pf).state ≠ .free) :
    (freeFrame pf s).viewIn c readers =
      (s.viewIn c readers).setFrame pf { s.frame pf with state := .free, owner := none } := by
  have hv : (freeFrame pf s).viewIn c readers = { (s.setFrame pf { s.frame pf with state := .free, owner := none }).viewIn
    c readers with pool := s.pool ++ [pf] } := rfl
  rw [hv, setFrame_viewIn, View.setFrame]
  show _ = { s.viewIn c readers with
    frame := Function.update s.frame pf { s.frame pf with state := .free, owner := none }
    pool := if (s.frame pf).state ≠ FrameState.free ∧ FrameState.free = FrameState.free then s.pool ++ [pf] else s.pool }
  rw [if_pos ⟨hf, rfl⟩]

theorem releaseFrame_viewIn (s : State) (c : Scope) (readers : PF → Nat) (pf : PF) :
    (releaseFrame pf s).viewIn c readers = (s.viewIn c readers).setFrame pf (s.frame pf).released := by
  simp only [releaseFrame, FrameRec.released]
  split
  · next hr =>
    split
    · exact setFrame_viewIn_of_not_freed s c readers (by nofun)
    · split
      · exact retireFrame_viewIn s c readers pf
      · exact freeFrame_viewIn s c readers fun hf => by simp [hf, FrameState.releasable] at hr
  · rw [← setFrame_viewIn_of_not_freed s c readers id, State.setFrame_same]

theorem unpinFrame_viewIn (s : State) (c : Scope) (readers : PF → Nat) (pf : PF) :
    (unpinFrame pf s).viewIn c readers = (s.viewIn c readers).setFrame pf (s.frame pf).unpinned := by
  have hlower : (s.setFrame pf { s.frame pf with pins := (s.frame pf).pins - 1 }).viewIn c readers =
    (s.viewIn c readers).setFrame pf { s.frame pf with pins := (s.frame pf).pins - 1 } :=
      setFrame_viewIn_of_not_freed s c readers id
  have hidem : ∀ f : FrameRec, (s.frame pf).state ≠ .free →
      ((s.viewIn c readers).setFrame pf { s.frame pf with pins := (s.frame pf).pins - 1 }).setFrame pf f =
        (s.viewIn c readers).setFrame pf f := fun f hf => by
    simp [View.setFrame, State.viewIn, hf]
  simp only [unpinFrame, FrameRec.unpinned, State.setFrame_frame_self]
  split
  · next h =>
    have hne : (s.frame pf).state ≠ .free := by simp [h.1]
    split
    · rw [retireFrame_viewIn, hlower, State.setFrame_frame_self, hidem _ hne]
    · rw [freeFrame_viewIn _ _ _ (by simpa using hne), hlower, State.setFrame_frame_self, hidem _ hne]
  · exact hlower

theorem mapFrame_viewIn (s : State) (c : Scope) (readers : PF → Nat) {pf : PF} {page : LP}
    (h : (s.frame pf).state = .shadow ∨ (s.frame pf).state = .moving) :
    (mapFrame pf page s).viewIn c readers =
      (s.viewIn c readers).setFrame pf { s.frame pf with state := .mapped, owner := some (.page page) } := by
  rw [mapFrame, if_pos h]
  exact setFrame_viewIn_of_not_freed s c readers (by nofun)

theorem pinFrame_viewIn (s : State) (c : Scope) (readers : PF → Nat) (pf : PF) :
    (pinFrame pf s).viewIn c readers =
      (s.viewIn c readers).setFrame pf { s.frame pf with pins := (s.frame pf).pins + 1 } :=
  setFrame_viewIn_of_not_freed s c readers id

/-- A pin that a reader let go of is released. -/
theorem View.Law.unpinFrame {readers' : PF → Nat} (h : (s.viewIn c readers).Law) {pf : PF}
    (hr : ∀ q, readers' q + (if q = pf then 1 else 0) ≤ readers q) : ((unpinFrame pf s).viewIn c readers').Law := by
  rw [unpinFrame_viewIn]
  exact h.unpin hr

/-- The pins that a READ let go of are released. -/
theorem View.Law.unpinAll {readers' : PF → Nat} {pfs : List PF} (h : (s.viewIn c readers).Law)
    (hr : ∀ q, readers' q + pfs.count q ≤ readers q) : ((unpinAll pfs s).viewIn c readers').Law := by
  induction pfs generalizing s readers with
  | nil => exact View.Law.readers_le h (readers := readers') (by simpa [State.viewIn] using hr)
  | cons pf pfs ih =>
    refine ih (s := Machine.unpinFrame pf s) (readers := fun q => readers' q + pfs.count q) (h.unpinFrame fun q => ?_)
      fun q => le_refl _
    have := hr q
    rw [List.count_cons] at this
    by_cases hq : q = pf
    · simp [hq] at this ⊢; omega
    · simp [hq, Ne.symm hq] at this ⊢; omega

theorem View.Law.releaseFrame (h : (s.viewIn c readers).Law) {pf : PF} (hu : (s.viewIn c readers).Unused pf) :
    ((releaseFrame pf s).viewIn c readers).Law := by
  rw [releaseFrame_viewIn]
  exact h.release hu

theorem View.Law.pinFrame {readers' : PF → Nat} (h : (s.viewIn c readers).Law) {pf : PF}
    (hr : ∀ q, readers' q ≤ readers q + if q = pf then 1 else 0) : ((pinFrame pf s).viewIn c readers').Law := by
  rw [pinFrame_viewIn]
  exact h.pin hr

/-- The frames of a capture are pinned. -/
theorem View.Law.pinAll {readers' : PF → Nat} {pfs : List PF} (h : (s.viewIn c readers).Law)
    (hr : ∀ q, readers' q ≤ readers q + pfs.count q) :
    ((pfs.foldl (fun t pf => Machine.pinFrame pf t) s).viewIn c readers').Law := by
  induction pfs generalizing s readers with
  | nil => exact View.Law.readers_le h (readers := readers') (by simpa [State.viewIn] using hr)
  | cons pf pfs ih =>
    refine ih (s := Machine.pinFrame pf s) (readers := fun q => readers q + if q = pf then 1 else 0)
      (View.Law.pinFrame h fun q => le_refl _) fun q => ?_
    have := hr q
    rw [List.count_cons] at this
    by_cases hq : q = pf
    · simp [hq] at this ⊢; omega
    · simp [hq, Ne.symm hq] at this ⊢; omega

/-- A frame's flag or corrected count changes. -/
theorem State.LawIn.setFrame_mark (h : s.LawIn c) {pf : PF} {f : FrameRec} (hs : f.state = (s.frame pf).state)
    (ho : f.owner = (s.frame pf).owner) (hp : f.pins = (s.frame pf).pins) : (s.setFrame pf f).LawIn c := by
  have hv := setFrame_viewIn_of_not_freed s c s.readers (pf := pf) (f := f) fun hf => hs.symm.trans hf
  rw [State.LawIn, show (s.setFrame pf f).readers = s.readers from rfl, hv]
  exact View.Law.setFrame_same h hs ho (hp ▸ h.pins pf)

theorem State.LawIn.flagFrame (h : s.LawIn c) (pf : PF) : (flagFrame pf s).LawIn c := h.setFrame_mark rfl rfl rfl

theorem State.LawIn.appendRecord (h : s.LawIn c) (kind : FaultKind) (pf : PF) (word : Option WordIx)
    (syn : Option Syndrome) (context : Option ReadContext) (page : Option LP) (handle : Option Handle) :
    (appendRecord kind pf word syn context page handle s).LawIn c :=
  h.of_background (appendRecord_background ..) (appendRecord_viewIn ..)

theorem State.LawIn.uncorrectableRecord (h : s.LawIn c) (pf : PF) (k : WordIx) (syn : Syndrome) (context : ReadContext) :
    (uncorrectableRecord pf k syn context s).LawIn c :=
  (h.appendRecord ..).flagFrame pf

end

end Sys2Proof.Machine
end

-- ==== The page map law: jobs and relocations ====
section
/-! PROOFS. The law in a scope through the copy queue: a job leaves it with its pin, a relocation is abandoned or
started. -/

namespace Sys2Proof.Machine

section
variable {s t : State} {c : Scope} {readers : PF → Nat}

/-! ### Frames after a pin's release and after a frame's release -/

theorem unpinFrame_frame_eq (s : State) (pf : PF) :
    (unpinFrame pf s).frame = Function.update s.frame pf (s.frame pf).unpinned :=
  congrArg View.frame (unpinFrame_viewIn s (.plain (fun _ => 0) false) s.readers pf)

theorem State.LawIn.releaseFrame (h : s.LawIn c) {pf : PF} (hu : (s.viewIn c s.readers).Unused pf) :
    (releaseFrame pf s).LawIn c := by
  rw [State.LawIn, (releaseFrame_background s pf).readers]
  exact View.Law.releaseFrame h hu

/-! ### Jobs and relocations -/

/-- The first element that a predicate takes, with what stands before and after it. -/
theorem find?_eraseP {α : Type} {p : α → Bool} {l : List α} {a : α} (h : l.find? p = some a) :
    ∃ before after, l = before ++ a :: after ∧ l.eraseP p = before ++ after ∧ p a = true ∧ ∀ b ∈ before, p b = false := by
  obtain ⟨hpa, before, after, rfl, hb⟩ := List.find?_eq_some_iff_append.mp h
  have hb' : ∀ b ∈ before, p b = false := fun b hm => by simpa using hb b hm
  refine ⟨before, after, rfl, ?_, hpa, hb'⟩
  rw [List.eraseP_append_right _ fun b hm => by simp [hb' b hm], List.eraseP_cons_of_pos hpa]

/-- A job left the queue; its pin is still counted. -/
theorem State.LawIn.dropJob (h : s.LawIn c) {before after : List Job} {j : Job} (hj : s.jobs = before ++ j :: after) :
    (State.viewIn { s with jobs := before ++ after } c
      fun pf => s.readers pf + if j.source? = some pf then 1 else 0).Law :=
  View.Law.dropJob h hj

/-- A job without a source left the queue, or its source was unpinned after it. -/
theorem State.LawIn.dropJob_unpin (h : s.LawIn c) {before after : List Job} {j : Job}
    (hj : s.jobs = before ++ j :: after) :
    State.LawIn (match j.source? with
      | none => { s with jobs := before ++ after }
      | some source => unpinFrame source { s with jobs := before ++ after }) c := by
  have hd := h.dropJob hj
  split
  · exact View.Law.readers_le hd fun pf => Nat.le_add_right ..
  · next source hs =>
    refine View.Law.unpinFrame hd fun q => ?_
    rw [(unpinFrame_background _ source).readers, hs]
    by_cases hq : q = source
    · subst hq; simp [State.readers, State.port]
    · simp [hq, Ne.symm hq, State.readers, State.port]

/-- A session's job is cancelled: no job of it is left. -/
theorem State.LawIn.cancelSessionJob (h : s.LawIn c) (slot : Slot) : (cancelSessionJob slot s).LawIn c ∧
    ∀ j ∈ (Machine.cancelSessionJob slot s).jobs, j.session? ≠ some slot := by
  cases hfind : s.jobs.find? fun j => j.session? = some slot with
  | none =>
    have hnone := List.find?_eq_none.mp hfind
    simp only [Machine.cancelSessionJob, hfind]
    exact ⟨h, fun j hj => by simpa using hnone j hj⟩
  | some job =>
    obtain ⟨before, after, hjobs, herase, hjob, -⟩ := find?_eraseP hfind
    have hjob : job.session? = some slot := by simpa using hjob
    have hl := h.dropJob_unpin hjobs
    have hone : ∀ j ∈ before ++ after, j.session? ≠ some slot := fun j hj hs => by
      have hn := View.Law.oneJob h
      simp only [State.viewIn, hjobs, List.filterMap_append, List.filterMap_cons_some hjob, List.nodup_append,
        List.nodup_cons] at hn
      rcases List.mem_append.mp hj with hj | hj
      · exact hn.2.2 slot (List.mem_filterMap.mpr ⟨j, hj, hs⟩) slot (List.mem_cons_self ..) rfl
      · exact hn.2.1.1 (List.mem_filterMap.mpr ⟨j, hj, hs⟩)
    simp only [Machine.cancelSessionJob, hfind, herase]
    refine ⟨hl, ?_⟩
    split
    · exact hone
    · rw [(unpinFrame_frame ..).2.2.2.2.2.2.2.2.2.2.2.2.2.1]
      exact hone

/-- A MOVING frame that no job fills is unused. -/
theorem View.Law.unused_of_moving {v : View} (h : v.Law) {pf : PF} (hs : (v.frame pf).state = .moving)
    (hj : ∀ j ∈ v.jobs, j.isRelocate = true → j.target ≠ pf) : v.Unused pf where
  page page hp := by
    have := (h.mapped page).1
    rw [hp, hs] at this
    cases this
  shadow slot e he hp := by
    have := (h.shadows slot e he).1
    rw [hp, hs] at this
    cases this
  moving := hj

/-- Beside a RELOCATE job there is no other. -/
theorem View.Law.only_relocate {v : View} (h : v.Law) {before after : List Job} {j : Job}
    (hj : v.jobs = before ++ j :: after) (hr : j.isRelocate = true) : ∀ x ∈ before ++ after, x.isRelocate = false := by
  have hlen := h.oneRelocation
  rw [hj, List.filter_append, List.filter_cons_of_pos hr, List.length_append, List.length_cons] at hlen
  intro x hx
  by_contra hne
  have hne : x.isRelocate = true := by simpa using hne
  rcases List.mem_append.mp hx with hx | hx
  · have := List.length_pos_of_mem (List.mem_filter.mpr ⟨hx, hne⟩)
    omega
  · have := List.length_pos_of_mem (List.mem_filter.mpr ⟨hx, hne⟩)
    omega

/-- What the abandonment of a page's relocation does to jobs and frames, before the flag is cleared. -/
def dropRelocation (page : LP) (s : State) : State :=
  match s.jobs.find? fun j => j.isRelocate && decide (j.page = page) with
  | none => s
  | some job =>
    releaseFrame job.target (match job.source? with
      | none => { s with jobs := s.jobs.eraseP fun j => j.isRelocate && decide (j.page = page) }
      | some source =>
        unpinFrame source { s with jobs := s.jobs.eraseP fun j => j.isRelocate && decide (j.page = page) })

theorem abandonRelocation_eq (s : State) (page : LP) :
    abandonRelocation page s = (dropRelocation page s).setEntry page
      { (dropRelocation page s).entry page with relocating := false } := rfl

/-- The relocation of a page goes with its job: its source is unpinned, its target released. -/
theorem State.LawIn.dropRelocation (h : s.LawIn c) (page : LP) : (dropRelocation page s).LawIn c ∧
    ∀ j ∈ (Machine.dropRelocation page s).jobs, j.isRelocate = true → j.page ≠ page := by
  cases hfind : s.jobs.find? fun j => j.isRelocate && decide (j.page = page) with
  | none =>
    have hnone := List.find?_eq_none.mp hfind
    simp only [Machine.dropRelocation, hfind]
    exact ⟨h, fun j hj hr hp => hnone j hj (by simp [hr, hp])⟩
  | some job =>
    obtain ⟨before, after, hjobs, herase, hjob, -⟩ := find?_eraseP hfind
    obtain ⟨hr, -⟩ : job.isRelocate = true ∧ job.page = page := by simpa using hjob
    have hothers : ∀ j ∈ before ++ after, j.isRelocate = false := View.Law.only_relocate h hjobs hr
    obtain ⟨source, hk⟩ := Job.kind_of_isRelocate hr
    have hl := h.dropJob_unpin hjobs
    obtain ⟨hsource, -, hmoving⟩ := View.Law.relocateJobs h job (by simp [State.viewIn, hjobs]) source hk
    have hmapped := (View.Law.mapped h job.page).1
    rw [← hsource] at hmapped
    have hne : job.target ≠ source := fun he => by
      rw [he, hmapped] at hmoving
      cases hmoving
    simp only [Machine.dropRelocation, hfind, herase, (Job.of_kind_relocate hk).1] at hl ⊢
    have hjobs' : (unpinFrame source { s with jobs := before ++ after }).jobs = before ++ after := by simp
    have hu := View.Law.unused_of_moving hl (pf := job.target)
      (by
        show ((unpinFrame source { s with jobs := before ++ after }).frame job.target).state = .moving
        rw [unpinFrame_frame_eq, Function.update_of_ne hne]
        exact hmoving)
      (by
        show ∀ j ∈ (unpinFrame source { s with jobs := before ++ after }).jobs, _
        rw [hjobs']
        exact fun j hj hr => absurd hr (by simp [hothers j hj]))
    refine ⟨?_, ?_⟩
    · exact hl.releaseFrame hu
    · simp only [releaseFrame_frame, unpinFrame_frame]
      exact fun j hj hr => absurd hr (by simp [hothers j hj])

theorem State.LawIn.setEntry (h : s.LawIn c) {page : LP} {e : MapEntry} (hf : e.frame = (s.entry page).frame)
    (hv : e.version = (s.entry page).version) (hc : e.claim = (s.entry page).claim)
    (hr : e.relocating = true ∨ ∀ j ∈ s.jobs, j.isRelocate = true → j.page ≠ page) : (s.setEntry page e).LawIn c := by
  rw [State.LawIn, setEntry_viewIn]
  exact View.Law.setEntry h hf hv hc hr

theorem State.LawIn.abandonRelocation (h : s.LawIn c) (page : LP) : (abandonRelocation page s).LawIn c ∧
    ∀ j ∈ (Machine.abandonRelocation page s).jobs, j.isRelocate = true → j.page ≠ page := by
  obtain ⟨hl, hj⟩ := h.dropRelocation page
  rw [abandonRelocation_eq]
  exact ⟨hl.setEntry rfl rfl rfl (.inr hj), hj⟩

/-- The start of a relocation, step by step: where one is due and the pool has a head. -/
theorem startRelocation_eq {page : LP} {target : PF} {rest : List PF} (hd : relocationDue s = some page)
    (hp : s.pool = target :: rest) : startRelocation s =
      pinFrame (s.entry page).frame (queueJob (.relocate (s.entry page).frame) page target
        (State.setEntry
          { s.setFrame target { s.frame target with state := .moving, owner := some (.page page) } with
            pool := rest, relocations := s.relocations.tail }
          page { s.entry page with relocating := true })) := by
  simp only [startRelocation, hd, allocate, hp]
  rfl

theorem startRelocation_of_empty (hp : s.pool = []) : startRelocation s = s := by
  simp only [startRelocation, allocate, hp]
  cases relocationDue s <;> rfl

/-- A relocation that is due has no RELOCATE job before it. -/
theorem relocationDue_some {page : LP} (h : relocationDue s = some page) : ∀ j ∈ s.jobs, j.isRelocate = false := by
  simp only [relocationDue] at h
  split at h
  · cases h
  · split at h
    · cases h
    · next hn => simpa using (not_or.mp hn).1

/-- The head of the pool is put to a use. -/
theorem State.LawIn.takeFree (h : s.LawIn c) {pf : PF} {rest : List PF} {f : FrameRec} (hp : s.pool = pf :: rest)
    (hs : f.state ≠ .free) (hpins : f.pins = (s.frame pf).pins) :
    State.LawIn { s.setFrame pf f with pool := rest } c := by
  have := View.Law.takeFree h hp hs hpins
  rw [show (s.viewIn c s.readers).frame = s.frame from rfl, ← setFrame_frame_eq_update] at this
  exact this

/-- A RELOCATE job is queued and its source pinned. -/
theorem State.LawIn.addRelocateJob (h : s.LawIn c) {page : LP} {target : PF}
    (hrel : (s.entry page).relocating = true) (htarget : (s.frame target).state = .moving)
    (hone : ∀ j ∈ s.jobs, j.isRelocate = false) :
    (pinFrame (s.entry page).frame (queueJob (.relocate (s.entry page).frame) page target s)).LawIn c := by
  have hne : (s.entry page).frame ≠ target := fun he => by
    have := (View.Law.mapped h page).1
    rw [show ((s.viewIn c s.readers).entry page).frame = target from he,
      show (s.viewIn c s.readers).frame = s.frame from rfl, htarget] at this
    cases this
  have hpin := View.Law.pin h (pf := (s.entry page).frame) (readers := s.readers) fun q => Nat.le_add_right ..
  have hpins := View.Law.pins h (s.entry page).frame
  have hjob := hpin.addRelocateJob
    (j := { kind := .relocate (s.entry page).frame, page := page, target := target, progress := .fillRead 0 })
    rfl rfl hrel
    (show (Function.update s.frame _ _ target).state = _ by rw [Function.update_of_ne hne.symm]; exact htarget) hone
    (show _ < (Function.update s.frame _ _ (s.entry page).frame).pins by
      rw [Function.update_self]
      exact Nat.lt_succ_of_le hpins)
  rw [State.LawIn, pinFrame_viewIn]
  exact hjob

theorem State.LawIn.startRelocation (h : s.LawIn c) : (startRelocation s).LawIn c := by
  cases hd : relocationDue s with
  | none => rw [startRelocation_of_none hd]; exact h
  | some page =>
    cases hp : s.pool with
    | nil => rw [startRelocation_of_empty hp]; exact h
    | cons target rest =>
      rw [startRelocation_eq hd hp]
      have hmoving := h.takeFree (f := { s.frame target with state := .moving, owner := some (.page page) }) hp (by simp) rfl
      have hentry := hmoving.setEntry (page := page) (e := { s.entry page with relocating := true }) rfl rfl rfl (.inl rfl)
      have hjob := hentry.addRelocateJob (page := page) (target := target) (by simp) (by
        show ((s.setFrame target _).frame target).state = _
        simp) (relocationDue_some (s := s) hd)
      simp only [State.setEntry_entry_self] at hjob
      exact hjob

end
end Sys2Proof.Machine
end

-- ==== The page map law: sessions, claims and waits ====
section
/-! PROOFS. The law in a scope through a session's record, its wait, the claim it takes and the offer of a released
claim. -/

namespace Sys2Proof.Machine

section
variable {s t : State} {c : Scope}

/-! ### Sessions, claims and waits -/

theorem setSession_viewIn (s : State) (c : Scope) (readers : PF → Nat) (slot : Slot) (r : SessionRec) :
    (s.setSession slot r).viewIn c readers = (s.viewIn c readers).setSession slot (c.session slot r) := by
  refine View.ext rfl rfl rfl ?_ rfl rfl rfl rfl rfl rfl
  funext q
  by_cases hq : q = slot
  · subst hq
    simp [State.viewIn, View.setSession]
  · simp [State.viewIn, View.setSession, hq, State.setSession_session_of_ne]

/-- A session's record changes, its shadows, its group and whether it is FREE being kept. -/
theorem State.LawIn.setSession (h : s.LawIn c) {slot : Slot} {r : SessionRec} (hc : c.session slot = id)
    (hl : r.shadows = (s.session slot).shadows) (hg : r.group = (s.session slot).group)
    (hf : r.state = .free ↔ (s.session slot).state = .free)
    (hjob : ∀ j ∈ s.jobs, j.session? = some slot → r.state = .opened ∧ r.activity = .copying)
    (hwait : ∀ w ∈ s.waits, w.slot = slot → r.state = .opened ∧ r.activity = .parked)
    (hver : c.serving = true → (s.session slot).state = .opened → (s.session slot).activity = .copying →
      r.state = .opened ∧ r.activity = .copying) : (s.setSession slot r).LawIn c := by
  have hrec : (s.viewIn c s.readers).session slot = s.session slot := by simp [State.viewIn, hc]
  rw [State.LawIn, setSession_viewIn, hc]
  refine View.Law.setSession h ?_ ?_ ?_ hjob hwait ?_ <;> rw [hrec]
  · exact hl
  · exact hg
  · exact hf
  · exact hver

/-- A waiting session of a lawful state counts as it stands: it is OPEN, PARKED, and has no job. -/
theorem State.LawIn.waiter (h : s.LawIn c) (hc : c.Ending) {w : WaitEntry} (hw : w ∈ s.waits) :
    c.session w.slot = id ∧ (s.session w.slot).state = .opened ∧ (s.session w.slot).activity = .parked ∧
      ∀ j ∈ s.jobs, j.session? ≠ some w.slot := by
  obtain ⟨ho, ha⟩ : (c.session w.slot (s.session w.slot)).state = .opened ∧
    (c.session w.slot (s.session w.slot)).activity = .parked := View.Law.waiters h w hw
  have hid : c.session w.slot = id := by
    rcases hc w.slot with hid | hend
    · exact hid
    · rw [hend] at ho; cases ho
  have hjob : ∀ j ∈ s.jobs, j.session? ≠ some w.slot := fun j hj hs => by
    have := (View.Law.sessionJobs h j hj w.slot hs).2.1
    rw [show (s.viewIn c s.readers).session w.slot = c.session w.slot (s.session w.slot) from rfl, ha] at this
    cases this
  rw [hid] at ho ha
  exact ⟨hid, ho, ha, hjob⟩

/-- A PARKED session's wait ends. -/
theorem State.LawIn.endWait (h : s.LawIn c) {slot : Slot} (hc : c.session slot = id)
    (ha : (s.session slot).activity = .parked) : (endWait slot s).LawIn c := by
  have hw : State.LawIn { s with waits := s.waits.filter fun e => e.slot ≠ slot } c :=
    View.Law.waits_sublist h (List.filter_sublist ..)
  refine hw.setSession hc rfl rfl Iff.rfl (fun j hj hs => ?_) (fun w hm hs => ?_) fun _ _ hcopying => ?_
  · have := (View.Law.sessionJobs h j hj slot hs).2.1
    simp only [State.viewIn, hc, id, ha] at this
    cases this
  · have := (List.mem_filter.mp hm).2
    simp [hs] at this
  · rw [show (State.session { s with waits := s.waits.filter fun e => e.slot ≠ slot } slot).activity = .parked from ha]
      at hcopying
    cases hcopying

theorem endWait_waits (s : State) (slot : Slot) : ∀ w ∈ (endWait slot s).waits, w.slot ≠ slot := fun w hw => by
  have hw : w ∈ s.waits.filter fun e => e.slot ≠ slot := hw
  simpa using (List.mem_filter.mp hw).2

theorem endWait_session (s : State) (slot : Slot) :
    (endWait slot s).session slot =
      { s.session slot with parked := none, waitPage := none, activity := .idle } := by
  simp only [endWait, modifySession, State.setSession_session_self]
  rfl

/-- A session job is queued, its source, where it has one, pinned. -/
theorem State.LawIn.addSessionJob (h : s.LawIn c) {slot : Slot} {page : LP} {target : PF} (hc : c.session slot = id)
    (hopen : (s.session slot).state = .opened) (hact : (s.session slot).activity = .copying)
    (hentry : ∃ e ∈ (s.session slot).shadows, e.page = page ∧ e.frame = target)
    (hone : ∀ j ∈ s.jobs, j.session? ≠ some slot) (write : PendingWrite) (origin : Origin) :
    (queueJob (.zero slot write origin) page target s).LawIn c ∧
      (pinFrame (s.entry page).frame (queueJob (.copy slot (s.entry page).frame write origin) page target s)).LawIn c := by
  have hrec : (s.viewIn c s.readers).session slot = s.session slot := by simp [State.viewIn, hc]
  constructor
  · exact View.Law.addSessionJob h (slot := slot)
      (j := { kind := .zero slot write origin, page := page, target := target, progress := .fillWrite 0 0 }) rfl
      (hrec ▸ hopen) (hrec ▸ hact) (hrec ▸ hentry) hone nofun nofun
  · have hpin := View.Law.pin h (pf := (s.entry page).frame) (readers := s.readers) fun q => Nat.le_add_right ..
    have hpins := View.Law.pins h (s.entry page).frame
    have hmapped := View.Law.mapped h page
    have hjob := hpin.addSessionJob (slot := slot)
      (j := { kind := .copy slot (s.entry page).frame write origin, page := page, target := target,
              progress := .fillRead 0 }) rfl (hrec ▸ hopen) (hrec ▸ hact) (hrec ▸ hentry) hone
      (fun source hs => by
        obtain rfl : (s.entry page).frame = source := by simpa [Job.source?] using hs
        show (Function.update s.frame _ _ (s.entry page).frame).state = _ ∧
          (Function.update s.frame _ _ (s.entry page).frame).owner = _
        rw [Function.update_self]
        exact hmapped)
      (fun source hs => by
        obtain rfl : (s.entry page).frame = source := by simpa [Job.source?] using hs
        show _ < (Function.update s.frame _ _ (s.entry page).frame).pins
        rw [Function.update_self]
        exact Nat.lt_succ_of_le hpins)
    rw [State.LawIn, pinFrame_viewIn]
    exact hjob

/-- A session that waits for nothing takes the claim of an unclaimed page. -/
theorem State.LawIn.claimed (h : s.LawIn c) {slot : Slot} {page : LP} {pf : PF} {rest : List PF}
    (hc : c.session slot = id) (hp : s.pool = pf :: rest) (hopen : (s.session slot).state = .opened)
    (hjob : ∀ j ∈ s.jobs, j.session? ≠ some slot) (hwait : ∀ w ∈ s.waits, w.slot ≠ slot)
    (hclaim : (s.entry page).claim = none) : (claimed slot page pf rest s).LawIn c := by
  have hfree : (s.frame pf).state = .free := (h.pool.2 pf).mp (by simp [State.viewIn, hp])
  have hunused := View.Law.unused_of_state h (pf := pf) (by simp [State.viewIn, hfree]) (by simp [State.viewIn, hfree])
    (by simp [State.viewIn, hfree])
  have hshadow := h.takeFree (f := { s.frame pf with state := .shadow, owner := some (.session slot) }) hp (by simp) rfl
  have hrec : ∀ t : State, (t.viewIn c t.readers).session slot = t.session slot := fun t => by simp [State.viewIn, hc]
  have hadd := View.Law.addEntry hshadow (slot := slot)
    (e := { page := page, frame := pf, zeroed := decide ((s.entry page).condition = .poisoned) })
    (r := { s.session slot with
      shadows := (s.session slot).shadows ++
        [{ page := page, frame := pf, zeroed := decide ((s.entry page).condition = .poisoned) }]
      activity := .copying })
    ⟨hunused.page, hunused.shadow, hunused.moving⟩
    (by show ((s.setFrame pf _).frame pf).state = _; simp) (by show ((s.setFrame pf _).frame pf).owner = _; simp)
    hclaim (hrec _ ▸ hopen) hopen rfl (by rw [hrec]; rfl) (by rw [hrec]; rfl) hjob hwait
  rw [State.LawIn, Machine.claimed, setSession_viewIn, setEntry_viewIn, hc]
  exact hadd

theorem State.LawIn.takeClaim (h : s.LawIn c) {slot : Slot} {page : LP} {write : PendingWrite} {origin : Origin}
    (hc : c.session slot = id) (hopen : (s.session slot).state = .opened)
    (hjob : ∀ j ∈ s.jobs, j.session? ≠ some slot) (hwait : ∀ w ∈ s.waits, w.slot ≠ slot)
    (hclaim : (s.entry page).claim = none) (ht : takeClaim slot page write origin s = some t) : t.LawIn c := by
  rw [takeClaim_eq] at ht
  split at ht
  · cases ht
  · next pf rest hp =>
    have hl := h.claimed hc hp hopen hjob hwait hclaim
    have hsession : (Machine.claimed slot page pf rest s).session slot = _ := State.setSession_session_self ..
    have hentry : ((Machine.claimed slot page pf rest s).entry page).frame = (s.entry page).frame := by
      simp [Machine.claimed]
    obtain ⟨hzero, hcopy⟩ := hl.addSessionJob (page := page) (target := pf) hc (hsession ▸ hopen) (hsession ▸ rfl)
      (by rw [hsession]; simp) hjob write origin
    rw [hentry] at hcopy
    cases ht
    split
    · exact hzero
    · exact hcopy

/-- A claim taken is the claim of one page. -/
theorem takeClaim_claim_of_ne {slot : Slot} {page q : LP} {write : PendingWrite} {origin : Origin} (hq : q ≠ page)
    (ht : takeClaim slot page write origin s = some t) : t.entry q = s.entry q := by
  have hclaimed : ∀ pf rest, (claimed slot page pf rest s).entry q = s.entry q := fun pf rest => by
    simp only [claimed, State.setSession_entry]
    exact State.setEntry_entry_of_ne _ _ hq
  rw [takeClaim_eq] at ht
  split at ht
  · cases ht
  · cases ht
    split <;> simp [hclaimed]

/-- A released claim is offered to its waiters: the claims of other pages stay. -/
theorem State.LawIn.offerDown (h : s.LawIn c) (hc : c.Ending) {page : LP} (hclaim : (s.entry page).claim = none) (n : Nat) :
    (offerDown page n s).LawIn c ∧ ∀ q, q ≠ page → (Machine.offerDown page n s).entry q = s.entry q := by
  induction n generalizing s with
  | zero => exact ⟨h, fun _ _ => rfl⟩
  | succ n ih =>
    rw [Machine.offerDown]
    cases hw : oldestWaiter page s with
    | none => exact ⟨h, fun _ _ => rfl⟩
    | some slot =>
      obtain ⟨w, hfind, rfl⟩ := Option.map_eq_some_iff.mp hw
      obtain ⟨hid, hopen, hparked, hjob⟩ := h.waiter hc (List.mem_of_find?_eq_some hfind)
      have hend := h.endWait hid hparked
      have hopen' : ((Machine.endWait w.slot s).session w.slot).state = .opened := by rw [endWait_session]; exact hopen
      simp only
      split
      · next ht =>
        exact ⟨hend.takeClaim hid hopen' hjob (endWait_waits s w.slot) hclaim ht, fun q hq =>
          takeClaim_claim_of_ne (s := Machine.endWait w.slot s) hq ht⟩
      · have hmap : ∀ q, (Machine.noticeToOwner w.slot (.writeFailed (s.handle w.slot) .noPage)
            (Machine.endWait w.slot s)).entry q = s.entry q := fun q => by
          simp only [State.entry, noticeToOwner_map]
          rfl
        obtain ⟨hl, he⟩ := ih (hend.noticeToOwner w.slot (.writeFailed (s.handle w.slot) .noPage)) (by rw [hmap]; exact hclaim)
        exact ⟨hl, fun q hq => (he q hq).trans (hmap q)⟩

theorem State.LawIn.offerClaim (h : s.LawIn c) (hc : c.Ending) {page : LP} (hclaim : (s.entry page).claim = none) :
    (offerClaim page s).LawIn c ∧ ∀ q, q ≠ page → (Machine.offerClaim page s).entry q = s.entry q := h.offerDown hc hclaim _

/-- The released claims of several pages are offered one after another. -/
theorem State.LawIn.offerAll {β : Type} (h : s.LawIn c) (hc : c.Ending) (page : β → LP) (tell : β → State → State)
    (htell : ∀ (b : β) (t : State), t.LawIn c → (tell b t).LawIn c ∧ (tell b t).entry = t.entry) {l : List β}
    (hn : (l.map page).Nodup) (hclaim : ∀ b ∈ l, (s.entry (page b)).claim = none) :
    (l.foldl (fun t b => tell b (Machine.offerClaim (page b) t)) s).LawIn c := by
  induction l generalizing s with
  | nil => exact h
  | cons b l ih =>
    rw [List.map_cons, List.nodup_cons] at hn
    obtain ⟨hl, he⟩ := h.offerClaim hc (hclaim b (List.mem_cons_self ..))
    obtain ⟨ht, hte⟩ := htell b _ hl
    refine ih ht hn.2 fun x hx => ?_
    have hne : page x ≠ page b := fun hp => hn.1 (hp ▸ List.mem_map_of_mem hx)
    rw [hte, he _ hne]
    exact hclaim x (List.mem_cons_of_mem _ hx)

end

end Sys2Proof.Machine
end

-- ==== The page map law: aborts ====
section
/-! PROOFS. The law in a scope through the abort of a session, of a group with it, and of the requests in service that
name it. -/

namespace Sys2Proof.Machine

section
variable {s t : State} {c : Scope}

/-! ### Aborts -/

/-- A request in service that stops using the store lets go of its pins. -/
theorem State.LawIn.stopService (h : s.LawIn c) {p : PortId} {r : InService} (hr : (s.port p).inService = some r) :
    (stopService p r s).LawIn c := by
  simp only [Machine.stopService]
  split
  · exact h
  · next pins _ _ hstage =>
    have hreaders := setService_readers s hr r.session .atOnce
    have hl : ((Machine.setService p r.session .atOnce s).viewIn c s.readers).Law := by
      rw [setService_viewIn]; exact h
    rw [State.LawIn, (unpinAll_background ..).readers]
    refine View.Law.unpinAll hl fun q => ?_
    have := hreaders q
    rw [hstage] at this
    exact le_of_eq this
  · exact h.setService p _ rfl
  · exact h.setService p _ rfl

theorem serviceNaming_eq_some {p : PortId} {slot : Slot} {r : InService} (h : s.serviceNaming p slot = some r) :
    (s.port p).inService = some r ∧ r.session = some slot ∧ isAbortOp r.request.op = false := by
  simpa [State.serviceNaming, Option.filter_eq_some_iff] using h

theorem State.LawIn.abortService (h : s.LawIn c) (slot : Slot) : (abortService slot s).LawIn c := by
  simp only [Machine.abortService]
  split
  · exact h
  · split
    · exact h
    · next hr => exact h.stopService (serviceNaming_eq_some hr).1

theorem stopService_frame (s : State) (p : PortId) (r : InService) : (stopService p r s).sessions = s.sessions ∧
    (stopService p r s).jobs = s.jobs ∧ (stopService p r s).waits = s.waits ∧
    (stopService p r s).relocations = s.relocations ∧ (stopService p r s).map = s.map := by
  simp only [stopService]
  split <;> simp

theorem abortService_session (s : State) (slot x : Slot) : (abortService slot s).session x = s.session x := by
  simp only [abortService]
  split
  · rfl
  · split
    · rfl
    · simp only [State.session, (stopService_frame ..).1]

theorem State.LawIn.abortWait (h : s.LawIn c) {slot : Slot} (hid : c.session slot = id) :
    (abortWait slot s).LawIn c ∧ ∀ w ∈ (Machine.abortWait slot s).waits, w.slot ≠ slot := by
  simp only [Machine.abortWait]
  split
  · next ha => exact ⟨h.endWait hid ha, endWait_waits s slot⟩
  · next ha =>
    refine ⟨h, fun w hw hs => ha ?_⟩
    have := (View.Law.waiters h w hw).2
    simpa only [State.viewIn, hs, hid, id] using this

theorem abortWait_frame (s : State) (slot : Slot) : (abortWait slot s).jobs = s.jobs ∧
    ((abortWait slot s).session slot).shadows = (s.session slot).shadows := by
  simp only [abortWait]
  split
  · exact ⟨rfl, by rw [endWait_session]⟩
  · exact ⟨rfl, rfl⟩

/-- Of the shadows that an ending session counts as holding, a part is read off the view. -/
theorem holds_viewIn (s : State) (c : Scope) (readers : PF → Nat) (m : Slot) (l l' : List ShadowEntry) :
    s.viewIn (c.holds m l') readers =
      (s.viewIn (c.holds m l) readers).setSession m { (s.viewIn (c.holds m l) readers).session m with shadows := l' } := by
  refine View.ext rfl rfl rfl ?_ rfl rfl rfl rfl rfl rfl
  funext q
  by_cases hq : q = m
  · subst hq
    simp [State.viewIn, Scope.holds, View.setSession]
  · simp [State.viewIn, Scope.holds, View.setSession, hq]

theorem holds_session (s : State) (c : Scope) (readers : PF → Nat) (m : Slot) (l : List ShadowEntry) :
    ((s.viewIn (c.holds m l) readers).session m) = { s.session m with shadows := l } := by
  simp [State.viewIn, Scope.holds]

/-- A session whose record counts as it stands holds its own shadows. -/
theorem Scope.holds_self {m : Slot} (hid : c.session m = id) (s : State) (readers : PF → Nat) :
    s.viewIn (c.holds m (s.session m).shadows) readers = s.viewIn c readers := by
  refine View.ext rfl rfl rfl ?_ rfl rfl rfl rfl rfl rfl
  funext q
  by_cases hq : q = m
  · subst hq
    simp [State.viewIn, Scope.holds, hid]
  · simp [State.viewIn, Scope.holds, hq]

/-- The first of the shadows held leaves with its page's claim; its frame is unused then. -/
theorem State.LawIn.dropHead {m : Slot} {e : ShadowEntry} {rest : List ShadowEntry}
    (h : s.LawIn (c.holds m (e :: rest))) (hjob : ∀ j ∈ s.jobs, j.session? ≠ some m) :
    (s.setEntry e.page { s.entry e.page with claim := none }).LawIn (c.holds m rest) ∧
      (State.viewIn (s.setEntry e.page { s.entry e.page with claim := none }) (c.holds m rest) s.readers).Unused
        e.frame := by
  have hrec := holds_session s c s.readers m (e :: rest)
  have hpages := View.Law.shadowPages h m
  have hframes := View.Law.shadowFrames h m
  have hclaims := View.Law.claims h e.page m
  rw [hrec] at hpages hframes hclaims
  rw [List.map_cons, List.nodup_cons] at hpages hframes
  have hnot : e ∉ rest := fun he => hpages.1 (List.mem_map_of_mem he)
  have hview : State.viewIn (s.setEntry e.page { s.entry e.page with claim := none }) (c.holds m rest) s.readers =
      ((s.viewIn (c.holds m (e :: rest)) s.readers).setEntry e.page { s.entry e.page with claim := none }).setSession m
        { (s.viewIn (c.holds m (e :: rest)) s.readers).session m with shadows := rest } := by
    rw [holds_viewIn _ c s.readers m (e :: rest) rest, setEntry_viewIn]
    rfl
  constructor
  · have := View.Law.dropEntry h (slot := m) (page := e.page) (rest := rest) (hrec ▸ List.sublist_cons_self ..)
      (fun x hx => ?_) (hclaims.mpr ⟨e, List.mem_cons_self .., rfl⟩) fun j hj hs => absurd hs (hjob j hj)
    · rw [State.LawIn, show State.readers (s.setEntry _ _) = s.readers from rfl, hview]
      exact this
    · rw [hrec] at hx
      rcases List.mem_cons.mp hx with rfl | hx
      · exact ⟨fun he => absurd he hnot, fun he => absurd rfl he⟩
      · exact ⟨fun _ hp => hpages.1 (hp ▸ List.mem_map_of_mem hx), fun _ => hx⟩
  · rw [hview]
    exact View.Law.unused_dropped h (hrec ▸ List.mem_cons_self ..) (hrec ▸ List.sublist_cons_self ..) hnot rfl

/-- The shadows that an ending session still holds are dropped one after another. -/
theorem State.LawIn.dropShadows {m : Slot} {l : List ShadowEntry} (h : s.LawIn (c.holds m l))
    (hjob : ∀ j ∈ s.jobs, j.session? ≠ some m) : (l.foldl (fun t e => dropShadow e t) s).LawIn (c.holds m []) := by
  induction l generalizing s with
  | nil => exact h
  | cons e l ih =>
    obtain ⟨hl, hu⟩ := h.dropHead hjob
    exact ih (hl.releaseFrame hu) (by simpa [dropShadow] using hjob)

theorem dropShadows_frame (s : State) (l : List ShadowEntry) :
    (l.foldl (fun t e => dropShadow e t) s).jobs = s.jobs ∧ (l.foldl (fun t e => dropShadow e t) s).waits = s.waits :=
  ⟨foldl_keeps State.jobs _ (fun t e => by simp [dropShadow]) _ _,
   foldl_keeps State.waits _ (fun t e => by simp [dropShadow]) _ _⟩

/-- Dropped shadows leave their pages unclaimed. -/
theorem dropShadows_claim (s : State) (l : List ShadowEntry) {page : LP}
    (h : (s.entry page).claim = none ∨ ∃ e ∈ l, e.page = page) :
    ((l.foldl (fun t e => dropShadow e t) s).entry page).claim = none := by
  induction l generalizing s with
  | nil => simpa using h
  | cons e l ih =>
    refine ih _ ?_
    by_cases hp : page = e.page
    · subst hp
      exact .inl (by simp [dropShadow])
    · rcases h with h | ⟨x, hx, hxp⟩
      · exact .inl (by simpa [dropShadow, State.setEntry_entry_of_ne _ _ hp] using h)
      · rcases List.mem_cons.mp hx with rfl | hx
        · exact absurd hxp.symm hp
        · exact .inr ⟨x, hx, hxp⟩

/-- A session that holds nothing any more counts as FREE. -/
theorem State.LawIn.ends {m : Slot} (h : s.LawIn (c.holds m [])) (hjob : ∀ j ∈ s.jobs, j.session? ≠ some m)
    (hwait : ∀ w ∈ s.waits, w.slot ≠ m) (hmem : ∀ g, c.gone ≠ some g → m ∉ (s.group g).members) :
    s.LawIn (c.ends [m]) := by
  have hview : s.viewIn (c.ends [m]) s.readers =
      (s.viewIn (c.holds m []) s.readers).setSession m (s.session m).ended := by
    refine View.ext rfl rfl rfl ?_ rfl rfl rfl rfl rfl rfl
    funext q
    by_cases hq : q = m
    · subst hq
      simp [State.viewIn, Scope.ends, View.setSession]
    · simp [State.viewIn, Scope.ends, Scope.holds, View.setSession, hq]
  rw [State.LawIn, hview]
  refine View.Law.setSession_empty h (by rw [holds_session]) rfl hjob hwait fun g hm => ?_
  by_cases hg : c.gone = some g
  · simp [State.viewIn, Scope.holds, hg] at hm
  · exact hmem g hg (by simpa [State.viewIn, Scope.holds, hg] using hm)

/-- A session's job, wait, shadows and claims go; its claims are offered. -/
theorem State.LawIn.withdraw (h : s.LawIn c) (hc : c.Ending) {m : Slot} (hid : c.session m = id)
    (hmem : ∀ g, c.gone ≠ some g → m ∉ (s.group g).members) :
    (withdraw m (s.session m).shadows s).LawIn (c.ends [m]) := by
  obtain ⟨hcancel, hjob⟩ := h.cancelSessionJob m
  obtain ⟨hwait, hnone⟩ := hcancel.abortWait hid
  have hshadows : ((Machine.abortWait m (Machine.cancelSessionJob m s)).session m).shadows = (s.session m).shadows := by
    rw [(abortWait_frame ..).2]
    simp
  have hjob' : ∀ j ∈ (Machine.abortWait m (Machine.cancelSessionJob m s)).jobs, j.session? ≠ some m := by
    rw [(abortWait_frame ..).1]
    exact hjob
  have hpages := View.Law.shadowPages h m
  have hholds : (Machine.abortWait m (Machine.cancelSessionJob m s)).LawIn (c.holds m (s.session m).shadows) := by
    rw [← hshadows, State.LawIn, Scope.holds_self hid]
    exact hwait
  have hdrop := hholds.dropShadows hjob'
  obtain ⟨hjobs, hwaits⟩ := dropShadows_frame (Machine.abortWait m (Machine.cancelSessionJob m s)) (s.session m).shadows
  have hgroups : ((s.session m).shadows.foldl (fun t e => dropShadow e t)
      (Machine.abortWait m (Machine.cancelSessionJob m s))).groups = s.groups :=
    ((cancelSessionJob_background s m).trans ((abortWait_background _ m).trans
      (State.Background.foldl (fun t e => dropShadow_background t e) _ _))).groups
  have hends := hdrop.ends (hjobs ▸ hjob') (hwaits ▸ hnone) fun g hg => by
    simpa only [State.group, hgroups] using hmem g hg
  exact hends.offerAll (hc.ends [m]) ShadowEntry.page (fun _ t => t) (fun _ _ ht => ⟨ht, rfl⟩)
    (by simpa only [State.viewIn, hid, id] using hpages) fun e he => dropShadows_claim _ _ (.inr ⟨e, he, rfl⟩)

/-- The record of a session that counts as FREE changes as it may. -/
theorem State.LawIn.setSession_ended {m : Slot} (h : s.LawIn (c.ends [m])) {r : SessionRec}
    (hr : r.generation = (s.session m).generation) : (s.setSession m r).LawIn (c.ends [m]) := by
  have hview : (s.setSession m r).viewIn (c.ends [m]) s.readers = s.viewIn (c.ends [m]) s.readers := by
    refine View.ext rfl rfl rfl ?_ rfl rfl rfl rfl rfl rfl
    funext q
    by_cases hq : q = m
    · subst hq
      simp [State.viewIn, Scope.ends, SessionRec.ended, hr]
    · simp [State.viewIn, Scope.ends, hq, State.setSession_session_of_ne]
  rw [State.LawIn, show (s.setSession m r).readers = s.readers from rfl, hview]
  exact h

theorem State.LawIn.abortReport (h : s.LawIn c) (slot : Slot) (reason : AbortReason) : (abortReport slot reason s).LawIn c := by
  simp only [Machine.abortReport]
  split
  · exact h
  · split
    · exact h
    · exact h.respond _ _
    · split
      · exact h.respond _ _
      · exact h.queueNotice _ _

/-- An abort leaves its session to be counted as FREE. -/
theorem State.LawIn.abortHold (h : s.LawIn c) (hc : c.Ending) {m : Slot} (hid : c.session m = id)
    (hmem : ∀ g, c.gone ≠ some g → m ∉ (s.group g).members) (reason : AbortReason) :
    (abortHold m reason s).LawIn (c.ends [m]) := by
  have hgroups : (Machine.abortService m s).groups = s.groups := (abortService_calm s m).groups
  have hw := (h.abortService m).withdraw hc hid fun g hg => by simpa only [State.group, hgroups] using hmem g hg
  rw [abortService_session] at hw
  rw [abortHold_eq]
  exact (hw.setSession_ended (r := { State.session _ m with guards := [] }) rfl).abortReport m reason

/-- A session that counts as FREE becomes FREE. -/
theorem State.LawIn.freeSession {m : Slot} (h : s.LawIn (c.ends [m])) (hid : c.session m = id) :
    (freeSession m s).LawIn c := by
  have hview : (Machine.freeSession m s).viewIn c s.readers = s.viewIn (c.ends [m]) s.readers := by
    refine View.ext rfl rfl rfl ?_ rfl rfl rfl rfl rfl rfl
    funext q
    by_cases hq : q = m
    · subst hq
      simp [State.viewIn, Scope.ends, Machine.freeSession, modifySession, hid, SessionRec.ended, SessionRec.reset]
    · simp [State.viewIn, Scope.ends, hq, Machine.freeSession, modifySession, State.setSession_session_of_ne]
  rw [State.LawIn, show (Machine.freeSession m s).readers = s.readers from rfl, hview]
  exact h

theorem State.LawIn.abortMember (h : s.LawIn c) (hc : c.Ending) {m : Slot} (hid : c.session m = id)
    (hmem : ∀ g, c.gone ≠ some g → m ∉ (s.group g).members) : (abortMember m s).LawIn c := by
  simp only [Machine.abortMember]
  split
  · exact h
  · exact (h.abortHold hc hid hmem .group).freeSession hid

theorem abortMember_groups (s : State) (m : Slot) : (abortMember m s).groups = s.groups := by
  simp only [abortMember]
  split
  · rfl
  · exact (abortHold_keeps s m .group).2.1

/-- The members of a dissolving group are aborted one after another. -/
theorem State.LawIn.abortMembers (h : s.LawIn c) (hc : c.Ending) {l : List Slot} (hid : ∀ m ∈ l, c.session m = id)
    (hmem : ∀ m ∈ l, ∀ g, c.gone ≠ some g → m ∉ (s.group g).members) :
    (l.foldl (fun t m => Machine.abortMember m t) s).LawIn c := by
  induction l generalizing s with
  | nil => exact h
  | cons m l ih =>
    refine ih (h.abortMember hc (hid m (List.mem_cons_self ..)) (hmem m (List.mem_cons_self ..)))
      (fun x hx => hid x (List.mem_cons_of_mem _ hx)) fun x hx => ?_
    simpa only [State.group, abortMember_groups] using hmem x (List.mem_cons_of_mem _ hx)

/-- A group counts as dissolved before its members go. -/
theorem State.LawIn.dissolve (h : s.LawIn c) (hc : c.gone = none) (g : Option GroupIx) : s.LawIn { c with gone := g } :=
  View.Law.members_sublist h fun g' => by
    simp only [State.viewIn, hc, reduceCtorEq, if_false]
    split
    · exact List.nil_sublist _
    · exact .refl _

/-- A dissolved group is IDLE and empty. -/
theorem State.LawIn.disband {g : GroupIx} (h : s.LawIn { c with gone := some g }) (hc : c.gone = none) :
    (s.setGroup g GroupRec.reset).LawIn c := by
  have hview : (s.setGroup g GroupRec.reset).viewIn c s.readers = s.viewIn { c with gone := some g } s.readers := by
    refine View.ext rfl rfl rfl rfl ?_ rfl rfl rfl rfl rfl
    funext x
    by_cases hx : x = g
    · subst hx
      simp [State.viewIn, hc, GroupRec.reset]
    · simp [State.viewIn, hc, State.setGroup_group_of_ne s _ hx, Ne.symm hx]
  rw [State.LawIn, show (s.setGroup g GroupRec.reset).readers = s.readers from rfl, hview]
  exact h

/-- A member of a group is a member of no other. -/
theorem State.LawIn.member_group (h : s.LawIn c) (hc : c.gone = none) {m : Slot} (hid : c.session m = id) {g : GroupIx}
    (hm : m ∈ (s.group g).members) : (s.session m).state ≠ .free ∧ (s.session m).group = some g := by
  simpa only [State.viewIn, hid, id] using (View.Law.members h g).2 m (by simpa [State.viewIn, hc] using hm)

/-- The abort of a session, with that of its group, keeps the law. -/
theorem State.LawIn.abortSession {origin : LP → BitVec 16} {serving : Bool} (h : s.LawIn (.plain origin serving))
    (slot : Slot) (reason : AbortReason) : (abortSession slot reason s).LawIn (.plain origin serving) := by
  have hgroup : ∀ m g, m ∈ (s.group g).members → (s.session m).group = some g := fun m g hm =>
    (h.member_group rfl rfl hm).2
  have hc := Scope.plain_ending origin serving
  have hhold := (h.dissolve rfl (s.session slot).group).abortHold hc (m := slot) rfl
    (fun g hg hm => hg (hgroup slot g hm)) reason
  have hgroups := (abortHold_keeps s slot reason).2.1
  simp only [Machine.abortSession]
  split
  · exact h
  · cases hg : (s.session slot).group with
    | none =>
      rw [hg] at hhold
      exact State.LawIn.freeSession (c := .plain origin serving) hhold rfl
    | some g =>
      rw [hg] at hhold
      have hmembers := hhold.abortMembers (l := ((s.group g).members.filter (· ≠ slot)))
        (Scope.Ending.ends (c := { Scope.plain origin serving with gone := some g }) hc [slot])
        (fun m hm => by
          have hne : m ≠ slot := by simpa using (List.mem_filter.mp hm).2
          simp [Scope.ends, Scope.plain, hne])
        fun m hm g' hg' hm' => by
          rw [State.group, hgroups] at hm'
          have h1 := hgroup m g (List.mem_filter.mp hm).1
          have h2 := hgroup m g' hm'
          rw [h1] at h2
          exact hg' h2
      have hreset := State.LawIn.disband (c := (Scope.plain origin serving).ends [slot]) hmembers rfl
      have habort : (abortGroup g slot reason (Machine.abortHold slot reason s)).LawIn
          ((Scope.plain origin serving).ends [slot]) := by
        have hs : (Machine.abortHold slot reason s).group g = s.group g := by rw [State.group, hgroups]; rfl
        simp only [abortGroup, hs]
        split
        · exact hreset.queueNotice _ _
        · exact hreset
      exact habort.freeSession rfl

end

end Sys2Proof.Machine
end

-- ==== The page map law: the apply ====
section
/-! PROOFS. The law in a scope through the switch, offer and end phases of an apply. -/

namespace Sys2Proof.Machine

section
variable {s t : State} {c : Scope}

/-! ### The apply -/

theorem abandonRelocation_jobs_subset (s : State) (page : LP) : ∀ j ∈ (abandonRelocation page s).jobs, j ∈ s.jobs := by
  intro j hj
  simp only [abandonRelocation, State.setEntry_jobs] at hj
  split at hj
  · exact hj
  · rw [(releaseFrame_frame ..).2.2.2.2.2.2.2.2.2.2.2.2.2.1] at hj
    split at hj
    · exact List.mem_of_mem_eraseP hj
    · exact List.mem_of_mem_eraseP (by simpa using hj)

theorem abandonRelocation_books (s : State) (page : LP) : (abandonRelocation page s).sessions = s.sessions ∧
    (abandonRelocation page s).waits = s.waits ∧ (abandonRelocation page s).relocations = s.relocations ∧
    ∀ q, q ≠ page → (abandonRelocation page s).entry q = s.entry q := by
  have h : (dropRelocation page s).sessions = s.sessions ∧ (dropRelocation page s).waits = s.waits ∧
      (dropRelocation page s).relocations = s.relocations ∧ (dropRelocation page s).map = s.map := by
    simp only [dropRelocation]
    split
    · exact ⟨rfl, rfl, rfl, rfl⟩
    · simp only [releaseFrame_frame]
      split <;> simp
  obtain ⟨hsessions, hwaits, hrelocations, hmap⟩ := h
  rw [abandonRelocation_eq]
  refine ⟨hsessions, hwaits, hrelocations, fun q hq => ?_⟩
  rw [State.setEntry_entry_of_ne _ _ hq]
  simp only [State.entry, hmap]

/-- What comes first at the switch of an entry: its page's relocation is abandoned or unlisted (R103). -/
def clearRelocation (page : LP) (s : State) : State :=
  if (s.entry page).relocating then abandonRelocation page s else unlistRelocation page s

theorem switchEntry_eq (e : ShadowEntry) (s : State) : switchEntry e s =
    releaseFrame ((clearRelocation e.page s).entry e.page).frame (mapFrame e.frame e.page
      ((clearRelocation e.page s).setEntry e.page
        { frame := e.frame, version := nextVersion ((clearRelocation e.page s).entry e.page).version, condition := .normal,
          claim := none, relocating := false })) := rfl

theorem clearRelocation_books (s : State) (page : LP) : (clearRelocation page s).sessions = s.sessions ∧
    (clearRelocation page s).waits = s.waits ∧ (∀ j ∈ (clearRelocation page s).jobs, j ∈ s.jobs) ∧
    ∀ q, q ≠ page → (clearRelocation page s).entry q = s.entry q := by
  simp only [clearRelocation]
  split
  · obtain ⟨hsessions, hwaits, -, hentry⟩ := abandonRelocation_books s page
    exact ⟨hsessions, hwaits, abandonRelocation_jobs_subset s page, hentry⟩
  · exact ⟨rfl, rfl, fun _ hj => hj, fun _ _ => rfl⟩

theorem switchEntry_books (s : State) (e : ShadowEntry) : (switchEntry e s).sessions = s.sessions ∧
    (switchEntry e s).waits = s.waits ∧ (∀ j ∈ (switchEntry e s).jobs, j ∈ s.jobs) ∧
    ∀ q, q ≠ e.page → (switchEntry e s).entry q = s.entry q := by
  obtain ⟨hsessions, hwaits, hjobs, hentry⟩ := clearRelocation_books s e.page
  rw [switchEntry_eq]
  refine ⟨by simpa using hsessions, by simpa using hwaits, by simpa using hjobs, fun q hq => ?_⟩
  rw [← hentry q hq, (releaseFrame_frame ..).2.2.1, (mapFrame_frame ..).2.2.1, State.setEntry_entry_of_ne _ _ hq]

theorem State.LawIn.clearRelocation (h : s.LawIn c) (page : LP) : (clearRelocation page s).LawIn c ∧
    ∀ j ∈ (Machine.clearRelocation page s).jobs, j.isRelocate = true → j.page ≠ page := by
  simp only [Machine.clearRelocation]
  split
  · exact h.abandonRelocation page
  · next hf =>
    refine ⟨h, fun j hj hr hp => hf ?_⟩
    obtain ⟨source, hk⟩ := Job.kind_of_isRelocate hr
    exact hp ▸ (View.Law.relocateJobs h j hj source hk).2.1

/-- An unused SHADOW or MOVING frame becomes a page's frame; the page's old frame is unused then. -/
theorem View.Law.remapFrame {readers : PF → Nat} (h : (s.viewIn c readers).Law) {page : LP} {e : MapEntry} {pf : PF}
    (hu : (s.viewIn c readers).Unused pf) (hst : (s.frame pf).state = .shadow ∨ (s.frame pf).state = .moving)
    (hf : e.frame = pf) (hc : e.claim = (s.entry page).claim) (hj : ∀ j ∈ s.jobs, j.isRelocate = true → j.page ≠ page)
    (hv : e.version = (s.entry page).version ∨
      c.serving = true ∧ (s.entry page).version = c.origin page ∧ e.version = nextVersion (c.origin page) ∧
        (s.entry page).claim = none) :
    ((mapFrame pf page (s.setEntry page e)).viewIn c readers).Law ∧
      ((mapFrame pf page (s.setEntry page e)).viewIn c readers).Unused (s.entry page).frame := by
  have hview : State.viewIn (mapFrame pf page (s.setEntry page e)) c readers =
      ((s.viewIn c readers).setEntry page e).setFrame pf
        { s.frame pf with state := .mapped, owner := some (.page page) } := by
    rw [mapFrame_viewIn _ _ _ (by exact hst), setEntry_viewIn]
    rfl
  have hold : e.frame ≠ (s.entry page).frame := fun he => by
    have hm := (View.Law.mapped h page).1
    rw [show ((s.viewIn c readers).entry page).frame = pf from he.symm.trans hf,
      show (s.viewIn c readers).frame = s.frame from rfl] at hm
    rcases hst with hst | hst <;> simp [hst] at hm
  have hunused := View.Law.unused_old h hold
  rw [hview]
  exact ⟨View.Law.remap h hu hst rfl rfl rfl hf hc hj hv, hunused.page, hunused.shadow, hunused.moving⟩

theorem State.LawIn.remap (h : s.LawIn c) {page : LP} {e : MapEntry} {pf : PF} (hu : (s.viewIn c s.readers).Unused pf)
    (hst : (s.frame pf).state = .shadow ∨ (s.frame pf).state = .moving) (hf : e.frame = pf)
    (hc : e.claim = (s.entry page).claim) (hj : ∀ j ∈ s.jobs, j.isRelocate = true → j.page ≠ page)
    (hv : e.version = (s.entry page).version ∨
      c.serving = true ∧ (s.entry page).version = c.origin page ∧ e.version = nextVersion (c.origin page) ∧
        (s.entry page).claim = none) :
    (mapFrame pf page (s.setEntry page e)).LawIn c ∧
      (State.viewIn (mapFrame pf page (s.setEntry page e)) c
        (State.readers (mapFrame pf page (s.setEntry page e)))).Unused (s.entry page).frame := by
  have hreaders : State.readers (mapFrame pf page (s.setEntry page e)) = s.readers :=
    (mapFrame_background (s.setEntry page e) pf page).readers
  rw [State.LawIn, hreaders]
  exact View.Law.remapFrame h hu hst hf hc hj hv

/-- The switch of the first of the shadows that a session still holds, while requests are served. -/
theorem State.LawIn.switchHead {m : Slot} {e : ShadowEntry} {rest : List ShadowEntry} (h : s.LawIn (c.holds m (e :: rest)))
    (hserving : c.serving = true) (hjob : ∀ j ∈ s.jobs, j.session? ≠ some m)
    (hidle : (s.session m).state = .opened → (s.session m).activity ≠ .copying) :
    (switchEntry e s).LawIn (c.holds m rest) := by
  obtain ⟨hclear, hreloc⟩ := h.clearRelocation e.page
  obtain ⟨hsessions, -, hjobs, -⟩ := clearRelocation_books s e.page
  rw [switchEntry_eq]
  generalize Machine.clearRelocation e.page s = u at hclear hreloc hsessions hjobs ⊢
  have hrec := holds_session u c u.readers m (e :: rest)
  have hmem : e ∈ ((u.viewIn (c.holds m (e :: rest)) u.readers).session m).shadows := hrec ▸ List.mem_cons_self ..
  have hclaim := (View.Law.claims hclear e.page m).mpr ⟨e, hmem, rfl⟩
  have hversion : (u.entry e.page).version = c.origin e.page := by
    rcases View.Law.versions hclear e.page with hv | ⟨-, -, hholder⟩
    · exact hv
    · obtain ⟨ho, ha⟩ := hholder m hclaim
      rw [hrec] at ho ha
      have hs : u.session m = s.session m := by simp only [State.session, hsessions]
      exact absurd (hs ▸ ha) (hidle (hs ▸ ho))
  obtain ⟨hdrop, hunused⟩ := hclear.dropHead fun j hj => hjob j (hjobs j hj)
  have hmap := hdrop.remap hunused (.inl (View.Law.shadows hclear m e hmem).1)
    (e := { frame := e.frame, version := nextVersion (u.entry e.page).version, condition := .normal, claim := none,
            relocating := false })
    rfl (by simp) hreloc (.inr ⟨hserving, by rw [State.setEntry_entry_self]; exact hversion, congrArg nextVersion hversion, by simp⟩)
  simp only [State.setEntry_setEntry, State.setEntry_entry_self] at hmap
  obtain ⟨hl, hold⟩ := hmap
  exact hl.releaseFrame hold

/-- What one session's switches leave of sessions, waits and jobs. -/
theorem switchEntries_books (s : State) (l : List ShadowEntry) :
    (l.foldl (fun t e => switchEntry e t) s).sessions = s.sessions ∧
    (l.foldl (fun t e => switchEntry e t) s).waits = s.waits ∧
    (∀ j ∈ (l.foldl (fun t e => switchEntry e t) s).jobs, j ∈ s.jobs) ∧
    (l.foldl (fun t e => switchEntry e t) s).groups = s.groups := by
  induction l generalizing s with
  | nil => exact ⟨rfl, rfl, fun _ hj => hj, rfl⟩
  | cons e l ih =>
    obtain ⟨hsessions, hwaits, hjobs, -⟩ := switchEntry_books s e
    obtain ⟨hsessions', hwaits', hjobs', hgroups'⟩ := ih (switchEntry e s)
    exact ⟨hsessions'.trans hsessions, hwaits'.trans hwaits, fun j hj => hjobs j (hjobs' j hj),
      hgroups'.trans (switchEntry_background s e).groups⟩

/-- The shadows of one applied session are switched into the map. -/
theorem State.LawIn.switchSession {m : Slot} {l : List ShadowEntry} (h : s.LawIn (c.holds m l))
    (hserving : c.serving = true) (hjob : ∀ j ∈ s.jobs, j.session? ≠ some m)
    (hidle : (s.session m).state = .opened → (s.session m).activity ≠ .copying) :
    (l.foldl (fun t e => switchEntry e t) s).LawIn (c.holds m []) := by
  induction l generalizing s with
  | nil => exact h
  | cons e l ih =>
    obtain ⟨hsessions, -, hjobs, -⟩ := switchEntry_books s e
    have hs : (switchEntry e s).session m = s.session m := by simp only [State.session, hsessions]
    exact ih (h.switchHead hserving hjob hidle) (fun j hj => hjob j (hjobs j hj)) (hs ▸ hidle)

/-- A session that an apply may take: its record counts as it stands, it has no job, no wait and no place in a group that
stays, and it is not waiting for a fill. -/
structure State.Settled (s : State) (c : Scope) (m : Slot) : Prop where
  counts : c.session m = id
  job    : ∀ j ∈ s.jobs, j.session? ≠ some m
  wait   : ∀ w ∈ s.waits, w.slot ≠ m
  group  : ∀ g, c.gone ≠ some g → m ∉ (s.group g).members
  idle   : (s.session m).state = .opened → (s.session m).activity ≠ .copying

/-- The switch phase of an apply. -/
theorem State.LawIn.switchMembers {members : List Slot} {shadows : Slot → List ShadowEntry} (h : s.LawIn c)
    (hserving : c.serving = true) (hn : members.Nodup) (hm : ∀ m ∈ members, s.Settled c m)
    (hs : ∀ m ∈ members, shadows m = (s.session m).shadows) :
    ((members.flatMap shadows).foldl (fun t e => switchEntry e t) s).LawIn (c.ends members) := by
  induction members generalizing s c with
  | nil =>
    have hc : c.ends [] = c := by simp [Scope.ends]
    rw [hc]
    exact h
  | cons m ms ih =>
    obtain ⟨hnot, hn⟩ := List.nodup_cons.mp hn
    have hset := hm m (List.mem_cons_self ..)
    have hholds : s.LawIn (c.holds m (shadows m)) := by
      rw [hs m (List.mem_cons_self ..), State.LawIn, Scope.holds_self hset.counts]
      exact h
    have hswitch := hholds.switchSession hserving hset.job hset.idle
    obtain ⟨hsessions, hwaits, hjobs, hgroups⟩ := switchEntries_books s (shadows m)
    have hends := hswitch.ends (fun j hj => hset.job j (hjobs j hj)) (hwaits ▸ hset.wait)
      (by simpa only [State.group, hgroups] using hset.group)
    rw [List.flatMap_cons, List.foldl_append, ← Scope.ends_ends c (l := [m]) (l' := ms) (by simp)]
    refine ih hends hserving hn (fun x hx => ?_) fun x hx => ?_
    · obtain ⟨hcounts, hjob, hwait, hgroup, hidle⟩ := hm x (List.mem_cons_of_mem _ hx)
      have hne : x ≠ m := fun he => hnot (he ▸ hx)
      exact ⟨by simpa [Scope.ends, hne] using hcounts, fun j hj => hjob j (hjobs j hj), hwaits ▸ hwait,
        fun g hg => by simpa only [State.group, hgroups] using hgroup g hg, by simpa only [State.session, hsessions] using hidle⟩
    · rw [hs x (List.mem_cons_of_mem _ hx)]
      simp only [State.session, hsessions]

/-- The work of an apply, entry by entry. -/
theorem applyPages_eq (members : List Slot) (s : State) : applyPages members s =
    (members.flatMap fun m => (s.session m).shadows.map fun e => (s.handle m, e)).foldl (fun t w => offerApplied w.1 w.2 t)
      ((members.flatMap fun m => (s.session m).shadows).foldl (fun t e => switchEntry e t) s) := by
  have hwork : (members.flatMap fun m => (s.session m).shadows) =
      (members.flatMap fun m => (s.session m).shadows.map fun e => (s.handle m, e)).map Prod.snd := by
    rw [List.map_flatMap]
    simp [List.map_map, Function.comp_def]
  rw [hwork, List.foldl_map]
  rfl

/-- The holder of a settled session's page is that session. -/
theorem State.LawIn.holder_iff (h : s.LawIn c) {m : Slot} (hm : s.Settled c m) {e : ShadowEntry}
    (he : e ∈ (s.session m).shadows) (x : Slot) : (s.entry e.page).claim = some x ↔ x = m := by
  have hclaim : (s.entry e.page).claim = some m := (View.Law.claims h e.page m).mpr
    ⟨e, by simpa only [State.viewIn, hm.counts, id] using he, rfl⟩
  rw [hclaim, Option.some.injEq, eq_comm]

/-- The pages of an apply's work are distinct. -/
theorem State.LawIn.work_pages_nodup {members : List Slot} (h : s.LawIn c) (hn : members.Nodup)
    (hm : ∀ m ∈ members, s.Settled c m) (handle : Slot → Handle) :
    ((members.flatMap fun m => (s.session m).shadows.map fun e => (handle m, e)).map fun w => w.2.page).Nodup := by
  simp only [List.map_flatMap, List.map_map, Function.comp_def]
  refine List.nodup_flatMap.mpr ⟨fun m hmem => ?_, hn.imp_of_mem fun hm1 hm2 hne => ?_⟩
  · simpa only [State.viewIn, (hm m hmem).counts, id] using View.Law.shadowPages h m
  · intro page hp1 hp2
    obtain ⟨e1, he1, rfl⟩ := List.mem_map.mp hp1
    obtain ⟨e2, he2, hp⟩ := List.mem_map.mp hp2
    have h1 := (h.holder_iff (hm _ hm1) he1 _).mpr rfl
    rw [← hp] at h1
    exact hne ((h.holder_iff (hm _ hm2) he2 _).mp h1)

/-- After the switches of an apply its pages are unclaimed. -/
theorem State.LawIn.claim_none_of_switched {members : List Slot} (h : s.LawIn c) (ht : t.LawIn (c.ends members))
    (hsessions : t.sessions = s.sessions) {m : Slot} (hmem : m ∈ members) (hm : s.Settled c m) {e : ShadowEntry}
    (he : e ∈ (s.session m).shadows) : (t.entry e.page).claim = none := by
  rw [← Option.not_isSome_iff_eq_none, Option.isSome_iff_exists]
  rintro ⟨x, hx⟩
  obtain ⟨e', he', hp⟩ := (View.Law.claims ht e.page x).mp hx
  by_cases hxm : x ∈ members
  · simp [State.viewIn, Scope.ends, hxm, SessionRec.ended] at he'
  · have hs : t.session x = s.session x := by simp only [State.session, hsessions]
    have hclaim : (s.entry e.page).claim = some x := (View.Law.claims h e.page x).mpr
      ⟨e', by simpa [State.viewIn, Scope.ends, hxm, hs] using he', hp⟩
    exact hxm ((h.holder_iff hm he x).mp hclaim ▸ hmem)

/-- An apply keeps the law; its sessions count as FREE after it. -/
theorem State.LawIn.applyPages {members : List Slot} (h : s.LawIn c) (hc : c.Ending) (hserving : c.serving = true)
    (hn : members.Nodup) (hm : ∀ m ∈ members, s.Settled c m) : (applyPages members s).LawIn (c.ends members) := by
  have hswitch := h.switchMembers (shadows := fun m => (s.session m).shadows) hserving hn hm fun _ _ => rfl
  have hsessions := (switchEntries_books s (members.flatMap fun m => (s.session m).shadows)).1
  have hclaim : ∀ w ∈ members.flatMap fun m => (s.session m).shadows.map fun e => (s.handle m, e),
      ((List.foldl (fun t e => switchEntry e t) s
        (members.flatMap fun m => (s.session m).shadows)).entry w.2.page).claim = none := fun w hw => by
    obtain ⟨m, hmem, hw⟩ := List.mem_flatMap.mp hw
    obtain ⟨e, he, rfl⟩ := List.mem_map.mp hw
    exact h.claim_none_of_switched hswitch hsessions hmem (hm m hmem) he
  rw [applyPages_eq]
  exact hswitch.offerAll (hc.ends members) (fun w : Handle × ShadowEntry => w.2.page)
    (fun w t => Machine.notifyWatchers w.2.page w.1 t)
    (fun w t ht => ⟨ht.notifyWatchers _ _, by funext q; simp only [State.entry, notifyWatchers_map]⟩)
    (h.work_pages_nodup hn hm s.handle) hclaim

/-- An applied session becomes FREE. -/
theorem State.LawIn.endApplied {m : Slot} (h : s.LawIn (c.ends [m])) (hid : c.session m = id) :
    (endApplied m s).LawIn c := by
  simp only [Machine.endApplied]
  split
  · exact h.freeSession hid
  · split
    · exact h.freeSession hid
    · next p _ r hr =>
      refine State.LawIn.freeSession (h.of_view (setService_viewIn ..) fun pf => ?_) hid
      have := setService_readers s (serviceNaming_eq_some hr).1 none r.stage pf
      omega

theorem State.LawIn.endMember {m : Slot} (h : s.LawIn (c.ends [m])) (hid : c.session m = id) : (endMember m s).LawIn c := by
  simp only [Machine.endMember]
  split
  · exact h.endApplied hid
  · exact (h.endApplied hid).queueNotice _ _

/-- The members of an applied group become FREE. -/
theorem State.LawIn.endMembers {members : List Slot} (h : s.LawIn (c.ends members)) (hn : members.Nodup)
    (hid : ∀ m ∈ members, c.session m = id) : (members.foldl (fun t m => Machine.endMember m t) s).LawIn c := by
  induction members generalizing s with
  | nil =>
    have hc : c.ends [] = c := by simp [Scope.ends]
    exact hc ▸ h
  | cons m ms ih =>
    obtain ⟨hnot, hn⟩ := List.nodup_cons.mp hn
    rw [← Scope.ends_ends c (l := ms) (l' := [m]) (by simp [or_comm])] at h
    exact ih (h.endMember (by simpa [Scope.ends, hnot] using hid m (List.mem_cons_self ..))) hn
      fun x hx => hid x (List.mem_cons_of_mem _ hx)

end

end Sys2Proof.Machine
end

-- ==== The page map law: groups and the opening of sessions ====
section
/-! PROOFS. The law through the resolution of a group, and through the requests OPEN and GUARD. -/

namespace Sys2Proof.Machine

section
variable {s t : State} {c : Scope} {origin : LP → BitVec 16}

/-! ### The resolution of a group -/

/-- An OPEN session that waits for nothing, or a READY one, may be applied with its group. -/
theorem State.LawIn.settled (h : s.LawIn c) {m : Slot} (hid : c.session m = id)
    (hrest : (s.session m).state = .opened → (s.session m).activity = .idle)
    (hgroup : ∀ g, c.gone ≠ some g → m ∉ (s.group g).members) : s.Settled c m := by
  have hrec : (s.viewIn c s.readers).session m = s.session m := by simp [State.viewIn, hid]
  refine ⟨hid, fun j hj hs => ?_, fun w hw hs => ?_, hgroup, fun ho => by simp [hrest ho]⟩
  · obtain ⟨ho, ha, -⟩ := View.Law.sessionJobs h j hj m hs
    rw [hrec] at ho ha
    simp [hrest ho] at ha
  · obtain ⟨ho, ha⟩ := View.Law.waiters h w hw
    rw [hs, hrec] at ho ha
    simp [hrest ho] at ha

/-- The apply of a group whose members are all READY. -/
theorem State.LawIn.applyGroup (h : s.LawIn (.plain origin true)) {g : GroupIx} (hready : s.allReady g = true) :
    (((s.group g).members.foldl (fun t m => Machine.endMember m t) (Machine.applyPages (s.group g).members s)).setGroup g
      GroupRec.reset).LawIn (.plain origin true) := by
  have hmem : ∀ m ∈ (s.group g).members, (s.session m).state = .ready := by
    simpa [State.allReady] using hready
  have hn : (s.group g).members.Nodup := by simpa [State.viewIn, Scope.plain] using (View.Law.members h g).1
  have hgone := h.dissolve rfl (some g)
  have happlied := hgone.applyPages (Scope.plain_ending origin true) rfl hn fun m hm =>
    hgone.settled rfl (fun ho => by simp [hmem m hm] at ho) fun g' hg' hm' => by
      have h1 := (h.member_group rfl rfl hm).2
      have h2 := (h.member_group rfl rfl hm').2
      rw [h1] at h2
      exact hg' h2
  exact State.LawIn.disband (c := .plain origin true) (happlied.endMembers hn fun _ _ => rfl) rfl

/-- The resolution of a group whose members are all READY keeps the law, by its apply or by its abort. -/
theorem State.LawIn.resolveGroup (h : s.LawIn (.plain origin true)) {g : GroupIx} (hready : s.allReady g = true)
    (close : Option PortId) : (resolveGroup g close s).LawIn (.plain origin true) := by
  simp only [Machine.resolveGroup]
  split
  · split
    · exact (h.abortSession _ _).respond _ _
    · exact h.abortSession _ _
  · have happlied := h.applyGroup hready
    split
    · exact happlied.respond _ _
    · exact happlied.queueNotice _ _
    · exact happlied

/-! ### The requests -/

theorem checkHandle_ok {p : PortId} {handle : Handle} {mustBeOpen : Bool} {slot : Slot}
    (h : checkHandle p handle mustBeOpen s = .ok slot) : (s.session slot).state ≠ .free ∧ (s.session slot).port = some p ∧
      (mustBeOpen = true → (s.session slot).state = .opened) := by
  simp only [checkHandle] at h
  split at h
  · cases h
  · next x hx =>
    have hnamed : (s.session x).state ≠ .free := by
      simp only [State.named] at hx
      split at hx
      · next hc => cases hx; exact hc.1
      · cases hx
    split at h
    · cases h
    · next hport =>
      split at h
      · cases h
      · next ho =>
        cases h
        refine ⟨hnamed, by simpa using hport, fun hb => ?_⟩
        simpa [hb] using ho

/-- A session takes its place in a group. -/
theorem State.LawIn.joinGroup (h : s.LawIn c) {g : GroupIx} {slot : Slot} (hid : c.session slot = id)
    (hstate : (s.session slot).state ≠ .free) (hgroup : (s.session slot).group = some g)
    (hnew : slot ∉ (s.group g).members) : (joinGroup g slot s).LawIn c := by
  have hrec : (s.viewIn c s.readers).session slot = s.session slot := by simp [State.viewIn, hid]
  refine { h with pool := h.pool, pins := h.pins, members := fun x => ?_ }
  have hx := View.Law.members h x
  by_cases hgx : x = g
  · subst hgx
    have hself : (Machine.joinGroup x slot s).group x = _ := State.setGroup_group_self ..
    simp only [State.viewIn, hself] at hx ⊢
    split
    · exact ⟨List.nodup_nil, nofun⟩
    · next hgone =>
      rw [if_neg hgone] at hx
      refine ⟨nodup_append_singleton hx.1 hnew, fun m hm => ?_⟩
      rcases List.mem_append.mp hm with hm | hm
      · exact hx.2 m hm
      · obtain rfl : m = slot := by simpa using hm
        exact ⟨by simpa [hid, Machine.joinGroup] using hstate, by simpa [hid, Machine.joinGroup] using hgroup⟩
  · have hne : (Machine.joinGroup g slot s).group x = s.group x := State.setGroup_group_of_ne _ _ hgx
    simp only [State.viewIn, hne] at hx ⊢
    exact hx

theorem State.LawIn.free_slot (h : s.LawIn c) {slot : Slot} (hid : c.session slot = id)
    (hfree : (s.session slot).state = .free) : (s.session slot).shadows = [] ∧ (∀ j ∈ s.jobs, j.session? ≠ some slot) ∧
      (∀ w ∈ s.waits, w.slot ≠ slot) ∧ ∀ g, slot ∉ (s.viewIn c s.readers).members g := by
  have hrec : (s.viewIn c s.readers).session slot = s.session slot := by simp [State.viewIn, hid]
  refine ⟨?_, fun j hj hs => ?_, fun w hw hs => ?_, fun g hg => ?_⟩
  · rw [← hrec]; exact View.Law.freeShadows h slot (hrec ▸ hfree)
  · have := (View.Law.sessionJobs h j hj slot hs).1
    simp [hrec, hfree] at this
  · have := (View.Law.waiters h w hw).1
    simp [hs, hrec, hfree] at this
  · have := ((View.Law.members h g).2 slot hg).1
    simp [hrec, hfree] at this

theorem State.LawIn.serveOpen (h : s.LawIn (.plain origin true)) (p : PortId) (tag : Byte) (budget : BitVec 16) :
    (serveOpen p tag budget s).LawIn (.plain origin true) := by
  simp only [Machine.serveOpen]
  split
  · exact h.respond _ _
  · split
    · exact h.respond _ _
    · split
      · exact h.respond _ _
      · next slot hslot =>
        have hfree : (s.session slot).state = .free := by simpa using List.find?_some hslot
        obtain ⟨hshadows, hjobs, hwaits, hmembers⟩ := h.free_slot (slot := slot) rfl hfree
        have hset : ∀ r : SessionRec, r.shadows = [] → (s.setSession slot r).LawIn (.plain origin true) := fun r hr => by
          rw [State.LawIn, setSession_viewIn]
          exact View.Law.setSession_empty h hshadows hr hjobs hwaits hmembers
        split
        · exact h.respond _ _
        · cases hg : groupOfTag tag with
          | none => exact (hset _ rfl).respond _ _
          | some g =>
            refine ((hset _ rfl).joinGroup rfl ?_ ?_ ?_).respond _ _
            · simp
            · simp
            · exact hmembers g

/-- A session's record changes outside what the law reads. -/
theorem State.LawIn.setSession_detail (h : s.LawIn (.plain origin true)) {slot : Slot} {r : SessionRec}
    (hl : r.shadows = (s.session slot).shadows) (hg : r.group = (s.session slot).group)
    (hs : r.state = (s.session slot).state) (ha : r.activity = (s.session slot).activity) :
    (s.setSession slot r).LawIn (.plain origin true) :=
  h.setSession rfl hl hg (hs ▸ Iff.rfl)
    (fun j hj hx => hs ▸ ha ▸ (View.Law.sessionJobs h j hj slot hx).imp_right And.left)
    (fun w hw hx => hs ▸ ha ▸ hx ▸ View.Law.waiters h w hw) fun _ ho hx => ⟨hs.trans ho, ha.trans hx⟩

theorem State.LawIn.serveGuard (h : s.LawIn (.plain origin true)) (p : PortId) (handle : Handle) (page : LP)
    (version : BitVec 16) : (serveGuard p handle page version s).LawIn (.plain origin true) := by
  simp only [Machine.serveGuard]
  split
  · exact h.respond _ _
  · split
    · exact State.LawIn.respond (h.setSession_detail (by rfl) (by rfl) (by rfl) (by rfl)) _ _
    · exact h.respond _ _

end

end Sys2Proof.Machine
end

-- ==== The page map law: the other requests ====
section
/-! PROOFS. The law through the requests that use the store, end transactions, report or configure, and through the
taking of requests into service after an event. -/

namespace Sys2Proof.Machine

section
variable {s t : State} {c : Scope} {origin : LP → BitVec 16}

/-! ### The requests that use the store, and those that end transactions -/

/-- A READ's sources are pinned for it. -/
theorem State.LawIn.captureRead (h : s.LawIn c) (p : PortId) (session : Option Slot) (address length : Nat) :
    (captureRead p session address length s).LawIn c := by
  simp only [Machine.captureRead]
  split
  · exact h.respond _ _
  · generalize List.flatMap _ _ = todo
    generalize List.map _ _ = pins
    have hreaders : (pins.foldl (fun t pf => pinFrame pf t) s).readers = s.readers :=
      (State.Background.foldl (fun t pf => setFrame_background t pf _) pins s).readers
    rw [State.LawIn, setService_viewIn]
    refine View.Law.pinAll h fun q => ?_
    rw [← hreaders]
    cases hs : ((pins.foldl (fun t pf => pinFrame pf t) s).port p).inService with
    | none => rw [setService_readers_none _ hs]; exact Nat.le_add_right ..
    | some r => exact (Nat.le_add_right ..).trans_eq (setService_readers _ hs session (.reading pins todo []) q)

theorem State.LawIn.serveRead (h : s.LawIn c) (p : PortId) (handle : Handle) (address length : BitVec 16) :
    (serveRead p handle address length s).LawIn c := by
  simp only [Machine.serveRead]
  split
  · exact h.respond _ _
  · split
    · exact h.respond _ _
    · exact h.captureRead _ _ _ _

/-- A session that waits for nothing has no job and no place in the claim wait list. -/
theorem State.LawIn.idle (h : s.LawIn c) {slot : Slot} (hid : c.session slot = id)
    (hidle : (s.session slot).activity = .idle) :
    (∀ j ∈ s.jobs, j.session? ≠ some slot) ∧ ∀ w ∈ s.waits, w.slot ≠ slot := by
  have hrec : (s.viewIn c s.readers).session slot = s.session slot := by simp [State.viewIn, hid]
  refine ⟨fun j hj hs => ?_, fun w hw hs => ?_⟩
  · have := (View.Law.sessionJobs h j hj slot hs).2.1
    simp [hrec, hidle] at this
  · have := (View.Law.waiters h w hw).2
    simp [hs, hrec, hidle] at this

/-- A session that waits for nothing changes its life stage or its activity. -/
theorem State.LawIn.setSession_idle (h : s.LawIn c) {slot : Slot} {r : SessionRec} (hid : c.session slot = id)
    (hidle : (s.session slot).activity = .idle) (hl : r.shadows = (s.session slot).shadows)
    (hg : r.group = (s.session slot).group) (hf : r.state = .free ↔ (s.session slot).state = .free) :
    (s.setSession slot r).LawIn c := by
  obtain ⟨hjobs, hwaits⟩ := h.idle hid hidle
  exact h.setSession hid hl hg hf (fun j hj hs => absurd hs (hjobs j hj)) (fun w hw hs => absurd hs (hwaits w hw))
    fun _ _ ha => by rw [hidle] at ha; cases ha

/-- A PARKED session joins the claim wait list. -/
theorem State.LawIn.addWait (h : s.LawIn c) {slot : Slot} (hid : c.session slot = id)
    (hopen : (s.session slot).state = .opened) (hparked : (s.session slot).activity = .parked)
    (hnone : ∀ w ∈ s.waits, w.slot ≠ slot) (page : LP) :
    State.LawIn { s with waits := s.waits ++ [⟨slot, page⟩] } c := by
  have hrec : (s.viewIn c s.readers).session slot = s.session slot := by simp [State.viewIn, hid]
  refine { h with pool := h.pool, waiters := fun w hw => ?_, oneWait := ?_ }
  · rcases List.mem_append.mp hw with hw | hw
    · exact View.Law.waiters h w hw
    · obtain rfl : w = ⟨slot, page⟩ := by simpa using hw
      exact hrec ▸ ⟨hopen, hparked⟩
  · have hnot : slot ∉ s.waits.map WaitEntry.slot := by simpa using hnone
    simpa [State.viewIn] using nodup_append_singleton h.oneWait hnot

theorem State.LawIn.firstWrite (h : s.LawIn c) {slot : Slot} (hid : c.session slot = id)
    (hopen : (s.session slot).state = .opened) (hidle : (s.session slot).activity = .idle) (p : PortId) (page : LP)
    (address : BitVec 16) (wait : Bool) (data : List Byte) :
    (firstWrite p slot page address wait data s).LawIn c := by
  obtain ⟨hjobs, hwaits⟩ := h.idle hid hidle
  simp only [Machine.firstWrite]
  split
  · exact h.respond _ _
  · split
    · split
      · exact h.respond _ _
      · split
        · exact h.respond _ _
        · have hpark := h.setSession_idle (r := { s.session slot with
            parked := some ⟨address, data⟩, waitPage := some page, activity := .parked }) hid hidle rfl rfl Iff.rfl
          exact (hpark.addWait hid (by simpa using hopen) (by simp) hwaits page).respond _ _
    · next hclaim =>
      split
      · exact h.respond _ _
      · next ht => exact (h.takeClaim hid hopen hjobs hwaits hclaim ht).setService _ _ rfl

theorem State.LawIn.serveWrite (h : s.LawIn (.plain origin true)) (p : PortId) (handle : Handle) (address : BitVec 16)
    (flags : Byte) (data : List Byte) : (serveWrite p handle address flags data s).LawIn (.plain origin true) := by
  simp only [Machine.serveWrite]
  split
  · exact h.respond _ _
  · next hcheck =>
    split
    · exact h.respond _ _
    · split
      · exact h.respond _ _
      · next hidle =>
        split
        · exact h.setService _ _ rfl
        · exact h.firstWrite rfl ((checkHandle_ok hcheck).2.2 rfl) (by simpa using hidle) _ _ _ _ _

theorem State.LawIn.serveAbort (h : s.LawIn (.plain origin true)) (p : PortId) (handle : Handle) :
    (serveAbort p handle s).LawIn (.plain origin true) := by
  simp only [Machine.serveAbort]
  split
  · exact h.respond _ _
  · exact ((h.setService _ _ rfl).abortSession _ _).startRelocation

/-- The apply of a session in no group. -/
theorem State.LawIn.applySession (h : s.LawIn (.plain origin true)) {slot : Slot}
    (hidle : (s.session slot).activity = .idle) (hgroup : (s.session slot).group = none) :
    (Machine.endApplied slot (Machine.applyPages [slot] s)).LawIn (.plain origin true) := by
  have hsettled : s.Settled (.plain origin true) slot := h.settled rfl (fun _ => hidle) fun g _ hm => by
    have := (h.member_group rfl rfl hm).2
    simp [hgroup] at this
  have happlied := h.applyPages (members := [slot]) (Scope.plain_ending origin true) rfl (List.nodup_singleton _) fun m hm =>
    (List.mem_singleton.mp hm) ▸ hsettled
  exact happlied.endApplied rfl

theorem State.LawIn.serveCommit (h : s.LawIn (.plain origin true)) (p : PortId) (handle : Handle) :
    (serveCommit p handle s).LawIn (.plain origin true) := by
  simp only [Machine.serveCommit]
  split
  · exact h.respond _ _
  · next slot hcheck =>
    split
    · exact h.respond _ _
    · next hidle =>
      have hidle : (s.session slot).activity = .idle := by simpa using hidle
      split
      · next hgroup =>
        have hserv := h.setService p (some slot) (stage := .atOnce) rfl
        split
        · exact (hserv.abortSession _ _).startRelocation
        · exact ((hserv.applySession (by simpa using hidle) (by simpa using hgroup)).respond _ _).startRelocation
      · have hready := h.setSession_idle (r := { s.session slot with state := .ready }) rfl hidle rfl rfl
          (by simp [(checkHandle_ok hcheck).1])
        have hresp := hready.respond p .ready
        split
        · next hall => exact (hresp.resolveGroup hall.2 none).startRelocation
        · exact hresp

/-- A group's record changes with its members kept. -/
theorem State.LawIn.setGroup_members (h : s.LawIn c) {g : GroupIx} {r : GroupRec}
    (hr : r.members = (s.group g).members) : (s.setGroup g r).LawIn c := by
  refine h.of_view (View.ext rfl rfl rfl rfl ?_ rfl rfl rfl rfl rfl) fun _ => le_refl _
  funext x
  by_cases hx : x = g
  · subst hx; simp [State.viewIn, hr]
  · simp [State.viewIn, State.setGroup_group_of_ne s _ hx]

theorem State.LawIn.serveClose (h : s.LawIn (.plain origin true)) (p : PortId) (tag : Byte) :
    (serveClose p tag s).LawIn (.plain origin true) := by
  simp only [Machine.serveClose]
  split
  · exact h.respond _ _
  · next g _ =>
    split
    · exact h.respond _ _
    · exact h.respond _ _
    · split
      · next hall => exact (h.resolveGroup hall (some p)).startRelocation
      · exact (h.setGroup_members (r := { s.group g with state := .closing, closer := some p }) rfl).respond _ _

/-! ### Reports, watches and settings -/

theorem State.LawIn.setPort_same (h : s.LawIn c) {p : PortId} {r : PortRec}
    (hr : r.inService = (s.port p).inService) : (s.setPort p r).LawIn c :=
  h.setPort fun pf => by simp [PortRec.pinned_eq, hr]

theorem State.LawIn.evalAllAttn (h : s.LawIn c) : (evalAllAttn s).LawIn c := by
  simp only [Machine.evalAllAttn]
  generalize List.finRange 4 = l
  induction l generalizing s with
  | nil => exact h
  | cons p l ih => exact ih (State.LawIn.setPort_same h rfl)

theorem State.LawIn.setWatches (h : s.LawIn c) (p : PortId) (watches : List LP) : (setWatches p watches s).LawIn c :=
  h.setPort_same rfl

theorem State.LawIn.setSettings (h : s.LawIn c) (settings : Settings) (timer : Option Nat) :
    State.LawIn { s with settings := settings, timer := timer } c := h.of_view rfl fun _ => le_refl _

theorem State.LawIn.serve_op (h : s.LawIn (.plain origin true)) (p : PortId) (op : RequestOp) :
    (Machine.serve p op s).LawIn (.plain origin true) := by
  cases op with
  | openSession group budget => exact h.serveOpen p group budget
  | abort handle => exact h.serveAbort p handle
  | guard handle page version => exact h.serveGuard p handle page version
  | read handle address length => exact h.serveRead p handle address length
  | write handle address flags data => exact h.serveWrite p handle address flags data
  | commit handle => exact h.serveCommit p handle
  | close group => exact h.serveClose p group
  | pageInfo page => exact h.respond _ _
  | poolInfo => exact h.respond _ _
  | sessInfo slot =>
    simp only [Machine.serve, serveSessInfo]
    split <;> exact h.respond _ _
  | watch page =>
    simp only [Machine.serve, serveWatch]
    split
    · exact h.respond _ _
    · split
      · exact (h.setWatches _ _).respond _ _
      · exact h.respond _ _
  | unwatch page =>
    simp only [Machine.serve, serveUnwatch]
    split
    · exact (h.setWatches _ _).respond _ _
    · exact h.respond _ _
  | setConfig record =>
    simp only [Machine.serve, serveSetConfig]
    split
    · exact h.respond _ _
    · split
      · exact h.respond _ _
      · exact (h.setSettings _ _).evalAllAttn.respond _ _
  | getConfig => exact h.respond _ _
  | logRead seq =>
    simp only [Machine.serve, serveLogRead]
    split <;> exact h.respond _ _

/-! ### Taking requests into service -/

/-- A port whose request is taken from the head of its queue served none before it. -/
theorem State.LawIn.serveHead (h : s.LawIn (.plain origin true)) {p : PortId} (hp : (s.port p).inService = none) :
    (serveHead p s).LawIn (.plain origin true) := by
  simp only [Machine.serveHead]
  split
  · exact h
  · simp only [takeIntoService, State.setPort_setPort]
    refine State.LawIn.serve_op (State.LawIn.setPort h fun pf => ?_) _ _
    simp [PortRec.pinned_eq, hp, Stage.pins]

theorem inService_of_waiting {p : PortId} (h : p ∈ s.waitingPorts) : (s.port p).inService = none := by
  have hp := (List.mem_filter.mp h).2
  simp only [PortRec.waiting, Bool.and_eq_true] at hp
  simpa using hp.1

theorem State.LawIn.settleUpTo (h : s.LawIn (.plain origin true)) (n : Nat) :
    (settleUpTo n s).LawIn (.plain origin true) := by
  induction n generalizing s with
  | zero => exact h
  | succ n ih =>
    simp only [Machine.settleUpTo]
    split
    · exact h
    · next p hp => exact ih (h.serveHead (inService_of_waiting (hp ▸ List.mem_cons_self ..)))
    · next p q rest hp =>
      have hchosen : (p :: q :: rest).getD (Config.portDraw s.draws % (rest.length + 2)) p ∈ s.waitingPorts := by
        have hlt : Config.portDraw s.draws % (rest.length + 2) < (p :: q :: rest).length := Nat.mod_lt _ (by omega)
        rw [hp, List.getD_eq_getElem _ _ hlt]
        exact List.getElem_mem _
      exact ih (State.LawIn.serveHead (s := { s with draws := s.draws + 1 }) (h.of_view rfl fun _ => le_refl _)
        (inService_of_waiting hchosen))

/-- What follows an event keeps the law. -/
theorem State.LawIn.settle (h : s.LawIn (.plain origin true)) : (settle s).LawIn (.plain origin true) := h.settleUpTo _

theorem State.LawIn.endEvent (h : s.LawIn (.plain origin true)) : (endEvent s).LawIn (.plain origin true) :=
  h.startRelocation.settle

/-- An event whose own steps step no version is followed by the service of requests. -/
theorem State.LawIn.settled_event {serving : Bool} (h : s.LawIn (.plain origin serving)) :
    (Machine.endEvent s).LawIn (.plain origin true) := State.LawIn.endEvent h.serve

end

end Sys2Proof.Machine
end

-- ==== The page map law: frames on the wire and the tick ====
section
/-! PROOFS. The law through the rows that are frames on a port, the port reset, the budgets and the scrub period timer.
-/

namespace Sys2Proof.Machine

section
variable {s t : State} {c : Scope} {origin : LP → BitVec 16}

/-! ### The frames on the wire -/

/-- A frame's release keeps the law if its judging does. -/
theorem State.LawIn.releaseWire (h : s.LawIn c) (p : PortId) (code : Byte) (n : Nat) {judge : Bool → Nat → State → State}
    (hj : ∀ held len t, t.LawIn c → (judge held len t).LawIn c) : (releaseWire p code n judge s).LawIn c := by
  simp only [Machine.releaseWire]
  split
  · exact State.LawIn.setPort_same h rfl
  · exact hj _ _ _ (State.LawIn.setPort_same h rfl)

theorem State.LawIn.discard (h : s.LawIn c) (p : PortId) (cause : DiscardCause) : (discard p cause s).LawIn c :=
  h.setPort_same rfl

theorem State.LawIn.checkedFrame (h : s.LawIn c) (p : PortId) (sent : List Byte) {act : State → State}
    (ha : (act s).LawIn c) : (checkedFrame p sent act s).LawIn c := by
  simp only [Machine.checkedFrame]
  split
  · exact h
  · split
    · exact ha
    · exact h.discard _ _

theorem State.LawIn.judged (h : s.LawIn (.plain origin true)) (p : PortId) (judgement : Except DiscardCause Request) :
    (judged p judgement s).LawIn (.plain origin true) := by
  simp only [Machine.judged]
  split
  · exact h.discard _ _
  · split
    · exact h.discard _ _
    · split
      · exact h.discard _ _
      · exact State.LawIn.settle (State.LawIn.setPort_same h rfl)

theorem State.LawIn.sendRequest (h : s.LawIn (.plain origin true)) (p : PortId) (r : Request) :
    (sendRequest p r s).LawIn (.plain origin true) := h.releaseWire _ _ _ fun _ _ _ ht => ht.judged _ _

theorem State.LawIn.completeFetch (h : s.LawIn c) (p : PortId) : (completeFetch p s).LawIn c := by
  simp only [Machine.completeFetch]
  split
  · exact h
  · exact State.LawIn.setPort_same h rfl

theorem State.LawIn.completeNote (h : s.LawIn c) (p : PortId) : (completeNote p s).LawIn c := h.setPort_same rfl

theorem State.LawIn.completePstat (h : s.LawIn c) (p : PortId) : (completePstat p s).LawIn c := h.setPort_same rfl

theorem State.LawIn.codeFrame (h : s.LawIn c) (p : PortId) (code : Byte) : (codeFrame p code s).LawIn c := by
  simp only [Machine.codeFrame]
  split
  · exact h
  · exact State.LawIn.setPort_same h rfl
  · exact State.LawIn.setPort_same h rfl
  · exact State.LawIn.setPort_same h rfl

theorem State.LawIn.dropService (h : s.LawIn c) (p : PortId) : (dropService p s).LawIn c := by
  simp only [Machine.dropService]
  split
  · exact h
  · next hr => exact (h.stopService hr).setService _ _ rfl

/-- Aborts of sessions one after another keep the law. -/
theorem State.LawIn.abortSessions {serving : Bool} (h : s.LawIn (.plain origin serving)) (chosen : Slot → State → Prop)
    [∀ slot t, Decidable (chosen slot t)] (reason : AbortReason) (l : List Slot) :
    (l.foldl (fun t slot => if chosen slot t then Machine.abortSession slot reason t else t) s).LawIn
      (.plain origin serving) := by
  induction l generalizing s with
  | nil => exact h
  | cons slot l ih =>
    rw [List.foldl_cons]
    split
    · exact ih (h.abortSession _ _)
    · exact ih h

theorem State.LawIn.abortPort (h : s.LawIn (.plain origin true)) (p : PortId) :
    (abortPort p s).LawIn (.plain origin true) := h.abortSessions (fun slot t => (t.session slot).port = some p) _ _

theorem State.LawIn.clearPort (h : s.LawIn c) (p : PortId) : (clearPort p s).LawIn c :=
  h.setPort fun pf => by simp [PortRec.pinned_eq, PortRec.evalAttn]

theorem State.LawIn.resetPort (h : s.LawIn (.plain origin true)) (p : PortId) :
    (resetPort p s).LawIn (.plain origin true) := by
  simp only [Machine.resetPort]
  split
  · exact (((h.dropService p).abortPort p).clearPort p).endEvent
  · exact h

/-! ### The tick -/

theorem State.LawIn.expireSessions {serving : Bool} (h : s.LawIn (.plain origin serving)) :
    (expireSessions s).LawIn (.plain origin serving) :=
  h.abortSessions (fun slot t => (t.session slot).state ≠ .free ∧ (t.session slot).budget = 0) _ _

/-- The scrub read's part of the readers. -/
theorem readers_scrub (s : State) (scrub : Option ScrubRead) (pf : PF) :
    State.readers { s with scrub := scrub } pf + (if s.scrub.map ScrubRead.frame = some pf then 1 else 0) =
      s.readers pf + if scrub.map ScrubRead.frame = some pf then 1 else 0 := by
  have hports : ∀ p, State.port { s with scrub := scrub } p = s.port p := fun _ => rfl
  simp only [State.readers, hports]
  omega

theorem State.LawIn.setTimer (h : s.LawIn c) (timer : Option Nat) : State.LawIn { s with timer := timer } c := h

/-- A scrub read pins its frame. -/
theorem State.LawIn.startScrub (h : s.LawIn c) (pf : PF) :
    (Machine.pinFrame pf { s with scrub := some { frame := pf, next := 0 } }).LawIn c := by
  have hv : (State.viewIn { s with scrub := some { frame := pf, next := 0 } } c s.readers).Law := h
  refine View.Law.pinFrame hv fun q => ?_
  have hr : (Machine.pinFrame pf { s with scrub := some { frame := pf, next := 0 } }).readers =
      State.readers { s with scrub := some { frame := pf, next := 0 } } := (setFrame_background ..).readers
  have := readers_scrub s (some { frame := pf, next := 0 }) q
  rw [hr]
  simp only [Option.map_some, Option.some.injEq, eq_comm (a := pf)] at this
  omega

theorem State.LawIn.visitFrame (h : s.LawIn c) : (visitFrame s).LawIn c := by
  have hstart : ∀ pf, (Machine.pinFrame pf
      { s with timer := none, cursor := pf + 1, scrub := some { frame := pf, next := 0 } }).LawIn c := fun pf =>
    State.LawIn.startScrub (s := { s with timer := none, cursor := pf + 1 }) h pf
  unfold Machine.visitFrame
  cases List.find? _ _ with
  | none => exact h.setTimer none
  | some pf => exact hstart pf

theorem State.LawIn.tickTimer (h : s.LawIn c) : (tickTimer s).LawIn c := by
  simp only [Machine.tickTimer]
  split
  · exact h
  · split
    · exact h.visitFrame
    · exact h.setTimer _

theorem lowerBudgets_session (s : State) (slot : Slot) : (lowerBudgets s).session slot =
    if (s.session slot).state = .free then s.session slot
    else { s.session slot with budget := (s.session slot).budget - 1 } := by
  exact Vector.getElem_map ..

/-- The law reads four fields of a session record. -/
theorem View.Law.setSessions {v : View} (h : v.Law) {session : Slot → SessionRec}
    (hshadows : ∀ slot, (session slot).shadows = (v.session slot).shadows)
    (hstate : ∀ slot, (session slot).state = (v.session slot).state)
    (hactivity : ∀ slot, (session slot).activity = (v.session slot).activity)
    (hgroup : ∀ slot, (session slot).group = (v.session slot).group) : View.Law { v with session := session } :=
  { h with
    pool := h.pool
    shadows := by simpa only [hshadows] using h.shadows
    shadowFrames := by simpa only [hshadows] using h.shadowFrames
    shadowPages := by simpa only [hshadows] using h.shadowPages
    freeShadows := by simpa only [hshadows, hstate] using h.freeShadows
    claims := by simpa only [hshadows] using h.claims
    sessionJobs := by simpa only [hshadows, hstate, hactivity] using h.sessionJobs
    waiters := by simpa only [hstate, hactivity] using h.waiters
    members := by simpa only [hstate, hgroup] using h.members
    versions := by simpa only [hstate, hactivity] using h.versions }

/-- Budgets are no part of the law. -/
theorem State.LawIn.lowerBudgets {serving : Bool} (h : s.LawIn (.plain origin serving)) :
    (lowerBudgets s).LawIn (.plain origin serving) :=
  View.Law.setSessions h
    (fun slot => (congrArg SessionRec.shadows (lowerBudgets_session s slot)).trans (by split <;> rfl))
    (fun slot => (congrArg SessionRec.state (lowerBudgets_session s slot)).trans (by split <;> rfl))
    (fun slot => (congrArg SessionRec.activity (lowerBudgets_session s slot)).trans (by split <;> rfl))
    (fun slot => (congrArg SessionRec.group (lowerBudgets_session s slot)).trans (by split <;> rfl))

end

end Sys2Proof.Machine
end

-- ==== The page map law: what a word access meets ====
section
/-! PROOFS. The law through correctable and uncorrectable words and through the accesses of the requests in service. -/

namespace Sys2Proof.Machine

section
variable {s t : State} {c : Scope} {origin : LP → BitVec 16} {serving : Bool}

/-! ### What a word access meets -/

theorem State.LawIn.setStore (h : s.LawIn c) (store : List StoreCell) : State.LawIn { s with store := store } c := h

theorem State.LawIn.writeWord (h : s.LawIn c) (pf : PF) (k : WordIx) (data : Word) : (s.writeWord pf k data).LawIn c := h

theorem State.LawIn.setWriteBacks (h : s.LawIn c) (l : List WriteBack) : State.LawIn { s with writeBacks := l } c := h

theorem State.LawIn.setRelocations (h : s.LawIn c) (l : List LP) : State.LawIn { s with relocations := l } c := h

theorem State.LawIn.correctableWord (h : s.LawIn c) (pf : PF) (k : WordIx) (syn : Syndrome) (data : Word)
    (context : ReadContext) : (correctableWord pf k syn data context s).LawIn c := by
  have hcount : (countCorrected pf s).LawIn c := h.setFrame_mark rfl rfl rfl
  simp only [Machine.correctableWord]
  split
  · exact (hcount.appendRecord ..).setWriteBacks _
  · exact hcount.appendRecord ..

/-- A page's condition is no part of the law. -/
theorem State.LawIn.setCondition (h : s.LawIn c) (page : LP) (condition : Condition) :
    (s.setEntry page { s.entry page with condition := condition }).LawIn c := by
  refine h.setEntry rfl rfl rfl ?_
  cases hr : (s.entry page).relocating with
  | true => exact .inl rfl
  | false =>
    refine .inr fun j hj hrel hp => ?_
    obtain ⟨source, hk⟩ := Job.kind_of_isRelocate hrel
    have := (View.Law.relocateJobs h j hj source hk).2.1
    simp [State.viewIn, hp, hr] at this

theorem State.LawIn.poisonPage (h : s.LawIn c) (page : LP) : (poisonPage page s).LawIn c := by
  have hcond := h.setCondition page .poisoned
  simp only [Machine.poisonPage]
  split
  · exact (hcond.abandonRelocation page).1.setRelocations _
  · exact hcond.setRelocations _

theorem State.LawIn.uncorrectableEffect (h : s.LawIn (.plain origin serving)) (pf : PF) (was : FrameRec) :
    (uncorrectableEffect pf was s).LawIn (.plain origin serving) := by
  simp only [Machine.uncorrectableEffect]
  split
  · exact h.poisonPage _
  · exact h.abortSession _ _
  · exact h

theorem State.LawIn.placeWord (h : s.LawIn c) {pf : PF} {write : PendingWrite} {k : WordIx}
    (ht : placeWord pf write k s = .ok t) : t.LawIn c := by
  simp only [Machine.placeWord] at ht
  split at ht
  · cases ht; exact h.writeWord _ _ _
  · split at ht
    · cases ht; exact h.writeWord _ _ _
    · cases ht; exact (h.correctableWord ..).writeWord _ _ _
    · cases ht

/-! ### The ports' accesses -/

/-- The request in service stays in service through an operation that reaches ports by notices alone. -/
theorem State.Background.inService {p : PortId} (h : s.Background t) : (t.port p).inService = (s.port p).inService :=
  (h.ports p).inService

/-- The record that a correctable word leaves behind it reaches ports by notices alone. -/
theorem correctableWord_inService (s : State) (pf : PF) (k : WordIx) (syn : Syndrome) (data : Word)
    (context : ReadContext) (p : PortId) :
    ((correctableWord pf k syn data context s).port p).inService = (s.port p).inService := by
  have hb : s.Background (appendRecord .corrected pf (some k) (some syn) (some context)
      ((countCorrected pf s).recordPage pf) ((countCorrected pf s).recordHandle pf) (countCorrected pf s)) :=
    (setFrame_background s pf _).trans (appendRecord_background ..)
  simp only [correctableWord]
  split
  · exact hb.inService
  · exact hb.inService

theorem State.LawIn.readOn (h : s.LawIn c) {p : PortId} {r : InService} (hr : (s.port p).inService = some r)
    {todo todo' : List ReadAccess} {data data' : List Byte} {pins : List PF} (hs : r.stage = .reading pins todo data) :
    (Machine.setService p r.session (.reading pins todo' data') s).LawIn c := by
  refine h.of_view (setService_viewIn ..) fun pf => ?_
  have := setService_readers s hr r.session (.reading pins todo' data') pf
  rw [hs] at this
  exact le_of_eq (Nat.add_right_cancel this)

theorem State.LawIn.portAccess (h : s.LawIn (.plain origin serving)) (p : PortId) :
    (portAccess p s).LawIn (.plain origin serving) := by
  simp only [Machine.portAccess]
  split
  · next request session pins a todo data hr =>
    simp only [readStep]
    split
    · exact h.readOn hr rfl
    · exact (h.correctableWord ..).readOn ((correctableWord_inService ..).trans hr) rfl
    · have hrec := h.uncorrectableRecord a.frame a.word (s.word a.frame a.word).diff .read
      have hserv := (uncorrectableRecord_background s a.frame a.word (s.word a.frame a.word).diff .read).inService (p := p)
      exact ((hrec.stopService (hserv.trans hr)).uncorrectableEffect _ _).respond _ _
  · next request session pf write k todo zeroed hr =>
    have hfails : ∀ syn, (placeFails p pf k (pageOfOp request.op) syn s).LawIn (.plain origin serving) := fun syn => by
      have heffect := (h.uncorrectableRecord pf k syn .read).uncorrectableEffect pf (s.frame pf)
      simp only [placeFails]
      split
      · exact heffect.respond _ _
      · exact heffect
    simp only [placeStep]
    split
    · next t ht =>
      exact (h.placeWord ht).setService _ _ rfl
    · exact hfails _
  · exact h

end

end Sys2Proof.Machine
end

-- ==== The page map law: the copy queue's head ====
section
/-! PROOFS. The law through the job at the head of the queue: its progress, its end, and the first write that fails with
it. -/

namespace Sys2Proof.Machine

/-! ### The queue of jobs -/

/-- The law reads a job by kind, page and target. -/
theorem View.Law.setHead {v : View} (h : v.Law) {j j' : Job} {rest : List Job} (hj : v.jobs = j :: rest)
    (hk : j'.kind = j.kind) (hp : j'.page = j.page) (ht : j'.target = j.target) :
    View.Law { v with jobs := j' :: rest } := by
  have hsession : j'.session? = j.session? := by simp only [Job.session?, hk]
  have hsource : j'.source? = j.source? := by simp only [Job.source?, hk]
  have hrel : j'.isRelocate = j.isRelocate := by simp only [Job.isRelocate, hk]
  have hmem : ∀ {P : Job → Prop}, (P j → P j') → (∀ x ∈ v.jobs, P x) → ∀ x ∈ j' :: rest, P x := fun hP hall x hx => by
    rcases List.mem_cons.mp hx with rfl | hx
    · exact hP (hall j (by simp [hj]))
    · exact hall x (by simp [hj, hx])
  exact
  { h with
    pool := h.pool
    sessionJobs := hmem (by simp only [hsession, hp, ht]; exact id) h.sessionJobs
    copySources := hmem (by simp only [hk, hp]; exact id) h.copySources
    pins := fun pf => by
      have := h.pins pf
      rw [hj, jobReaders_cons] at this
      rw [jobReaders_cons, hsource]
      exact this
    oneJob := by
      have := h.oneJob
      rw [hj] at this
      simpa only [List.filterMap_cons, hsession] using this
    relocateJobs := hmem (by simp only [hk, hp, ht]; exact id) h.relocateJobs
    oneRelocation := by
      have := h.oneRelocation
      rw [hj] at this
      simpa only [List.filter_cons, hrel, apply_ite List.length, List.length_cons] using this }

/-- The law does not read the order of the jobs. -/
theorem View.Law.permJobs {v : View} (h : v.Law) {jobs : List Job} (hp : jobs.Perm v.jobs) :
    View.Law { v with jobs := jobs } :=
  { h with
    pool := h.pool
    sessionJobs := fun j hj => h.sessionJobs j (hp.mem_iff.mp hj)
    copySources := fun j hj => h.copySources j (hp.mem_iff.mp hj)
    pins := fun pf => (Nat.add_le_add_left (hp.filter _).length_eq.le _).trans (h.pins pf)
    oneJob := (hp.filterMap _).nodup_iff.mpr h.oneJob
    relocateJobs := fun j hj => h.relocateJobs j (hp.mem_iff.mp hj)
    oneRelocation := (hp.filter _).length_eq.le.trans h.oneRelocation }

section
variable {s t : State} {c : Scope} {origin : LP → BitVec 16} {serving : Bool}

theorem State.LawIn.setProgress (h : s.LawIn c) (progress : Progress) : (setProgress progress s).LawIn c := by
  simp only [Machine.setProgress]
  split
  · exact h
  · next job rest hj => exact View.Law.setHead h hj rfl rfl rfl

/-- The job at the head of the queue and its session. -/
theorem State.LawIn.head_session (h : s.LawIn c) {job : Job} {rest : List Job} (hj : s.jobs = job :: rest) {slot : Slot}
    (hid : c.session slot = id) (hs : job.session? = some slot) :
    (s.session slot).state = .opened ∧ (s.session slot).activity = .copying ∧
      (∃ e ∈ (s.session slot).shadows, e.page = job.page ∧ e.frame = job.target) ∧
      (∀ j ∈ rest, j.session? ≠ some slot) ∧ ∀ w ∈ s.waits, w.slot ≠ slot := by
  have hrec : (s.viewIn c s.readers).session slot = s.session slot := by simp [State.viewIn, hid]
  obtain ⟨ho, ha, he⟩ := View.Law.sessionJobs h job (by simp [State.viewIn, hj]) slot hs
  rw [hrec] at ho ha he
  refine ⟨ho, ha, he, fun j hm hjs => ?_, fun w hw hws => ?_⟩
  · have hn := View.Law.oneJob h
    simp only [State.viewIn, hj, List.filterMap_cons_some hs, List.nodup_cons] at hn
    exact hn.1 (List.mem_filterMap.mpr ⟨j, hm, hjs⟩)
  · have := (View.Law.waiters h w hw).2
    rw [hws, hrec, ha] at this
    cases this

/-- The job at the head leaves, its source, where it has one, having been unpinned before. -/
theorem State.LawIn.leave (h : s.LawIn c) {job : Job} {rest : List Job} (hj : s.jobs = job :: rest) {source : PF}
    (hs : job.source? = some source) : State.LawIn { unpinFrame source s with jobs := rest } c := by
  have hd := h.dropJob_unpin (before := []) hj
  simp only [hs, List.nil_append] at hd
  have hview : ∀ readers, State.viewIn { unpinFrame source s with jobs := rest } c readers =
      (unpinFrame source { s with jobs := rest }).viewIn c readers := fun readers => by
    show { (unpinFrame source s).viewIn c readers with jobs := rest } = _
    rw [unpinFrame_viewIn, unpinFrame_viewIn]
    rfl
  have hreaders : State.readers { unpinFrame source s with jobs := rest } =
      (unpinFrame source { s with jobs := rest }).readers :=
    (unpinFrame_background s source).readers.trans (unpinFrame_background { s with jobs := rest } source).readers.symm
  rw [State.LawIn, hreaders, hview]
  exact hd

/-! ### A first write that fails (R72) -/

/-- Steps 3 to 5 of R72: the shadow entry leaves its list, its frame is released, the claim is cleared. -/
def dropWrite (slot : Slot) (page : LP) (target : PF) (s : State) : State :=
  (releaseFrame target (dropEntry slot page s)).setEntry page { s.entry page with claim := none }

/-- A shadow entry of a session without a job leaves with its page's claim, and its frame is released. -/
theorem State.LawIn.dropWrite (h : s.LawIn c) {slot : Slot} {e : ShadowEntry} (hid : c.session slot = id)
    (he : e ∈ (s.session slot).shadows) (hjob : ∀ j ∈ s.jobs, j.session? ≠ some slot) :
    (dropWrite slot e.page e.frame s).LawIn c := by
  have hrec : (s.viewIn c s.readers).session slot = s.session slot := by simp [State.viewIn, hid]
  obtain ⟨rest, hrest⟩ : ∃ rest, rest = (s.session slot).shadows.filter fun x => x.page ≠ e.page := ⟨_, rfl⟩
  have hsub : rest.Sublist ((s.viewIn c s.readers).session slot).shadows := hrec ▸ hrest ▸ List.filter_sublist ..
  have hclaim : (s.entry e.page).claim = some slot := (View.Law.claims h e.page slot).mpr ⟨e, hrec ▸ he, rfl⟩
  have hdrop := View.Law.dropEntry h hsub
    (fun x hx => by rw [hrec] at hx; simp [hrest, hx]) hclaim fun j hj hs => absurd hs (hjob j hj)
  have hunused := View.Law.unused_dropped h (m := { s.entry e.page with claim := none }) (hrec ▸ he) hsub
    (by simp [hrest]) rfl
  have hview : ∀ readers, State.viewIn (Machine.dropWrite slot e.page e.frame s) c readers =
      View.setFrame (((s.viewIn c readers).setEntry e.page { s.entry e.page with claim := none }).setSession slot
        { s.session slot with shadows := rest }) e.frame (s.frame e.frame).released := fun readers => by
    rw [Machine.dropWrite, setEntry_viewIn, releaseFrame_viewIn, dropEntry, modifySession, setSession_viewIn, hid, hrest]
    rfl
  have hreaders : (Machine.dropWrite slot e.page e.frame s).readers = s.readers :=
    (releaseFrame_background (dropEntry slot e.page s) e.frame).readers
  rw [State.LawIn, hreaders, hview]
  rw [hrec] at hdrop hunused
  exact hdrop.release hunused

/-- The offer of a page leaves a session that does not wait as it was. -/
theorem offerDown_other (s : State) (page : LP) (slot : Slot) (hw : ∀ w ∈ s.waits, w.slot ≠ slot) (n : Nat) :
    (offerDown page n s).session slot = s.session slot ∧
      (∀ j ∈ (offerDown page n s).jobs, j.session? = some slot → j ∈ s.jobs) ∧
      ∀ w ∈ (offerDown page n s).waits, w.slot ≠ slot := by
  induction n generalizing s with
  | zero => exact ⟨rfl, fun _ hj _ => hj, hw⟩
  | succ n ih =>
    simp only [offerDown]
    split
    · exact ⟨rfl, fun _ hj _ => hj, hw⟩
    · next other hother =>
      have hne : slot ≠ other := by
        simp only [oldestWaiter, Option.map_eq_some_iff] at hother
        obtain ⟨w, hfind, rfl⟩ := hother
        exact (hw w (List.mem_of_find?_eq_some hfind)).symm
      have hsession : (endWait other s).session slot = s.session slot := State.setSession_session_of_ne _ _ hne
      have hwaits : ∀ w ∈ (endWait other s).waits, w.slot ≠ slot := fun w hm => hw w (List.mem_of_mem_filter hm)
      split
      · next t ht =>
        rw [takeClaim_eq] at ht
        split at ht
        · cases ht
        · next pf rest _ =>
          have hc : (claimed other page pf rest (endWait other s)).session slot = s.session slot :=
            (State.setSession_session_of_ne _ _ hne).trans hsession
          cases ht
          split
          · refine ⟨hc, fun j hj hs => ?_, hwaits⟩
            rcases List.mem_append.mp hj with hj | hj
            · exact hj
            · rw [List.mem_singleton.mp hj] at hs
              exact absurd (Option.some.inj hs).symm hne
          · refine ⟨hc, fun j hj hs => ?_, hwaits⟩
            rcases List.mem_append.mp hj with hj | hj
            · exact hj
            · rw [List.mem_singleton.mp hj] at hs
              exact absurd (Option.some.inj hs).symm hne
      · have hnotice : ∀ body, (noticeToOwner other body (endWait other s)).sessions = (endWait other s).sessions ∧
            (noticeToOwner other body (endWait other s)).jobs = s.jobs ∧
            (noticeToOwner other body (endWait other s)).waits = (endWait other s).waits := fun body => by
          simp only [noticeToOwner]
          split
          · exact ⟨rfl, rfl, rfl⟩
          · simp only [queueNotice_frame]; exact ⟨trivial, rfl, trivial⟩
        obtain ⟨hs, hj, hw'⟩ := hnotice (.writeFailed (s.handle other) .noPage)
        obtain ⟨ih1, ih2, ih3⟩ := ih _ (by rw [hw']; exact hwaits)
        exact ⟨ih1.trans (by simp only [State.session, hs]; exact hsession), fun j hm hjs => hj ▸ ih2 j hm hjs, ih3⟩

/-- A session's write ends outside the service of requests: it waits for nothing any more. -/
theorem State.LawIn.setIdle (h : s.LawIn (.plain origin false)) {slot : Slot}
    (hjob : ∀ j ∈ s.jobs, j.session? ≠ some slot) (hwait : ∀ w ∈ s.waits, w.slot ≠ slot) :
    (modifySession slot (fun r => { r with activity := .idle }) s).LawIn (.plain origin false) :=
  h.setSession rfl rfl rfl Iff.rfl (fun j hj hs => absurd hs (hjob j hj)) (fun w hw hs => absurd hs (hwait w hw)) nofun

theorem failWrite_eq (slot : Slot) (page : LP) (target : PF) (origin : Origin) (s : State) :
    failWrite slot page target origin s =
      let t := modifySession slot (fun r => { r with activity := .idle })
        (offerClaim page (dropWrite slot page target { s with jobs := s.jobs.tail }))
      match origin, (t.session slot).port with
      | .inService, some p => respond p (.poisoned page) t
      | .granted, some p => queueNotice p (.writeFailed (t.handle slot) .poisoned) t
      | _, none => t := by
  have hentry : State.entry (releaseFrame target (dropEntry slot page { s with jobs := s.jobs.tail })) page =
      State.entry { s with jobs := s.jobs.tail } page := by simp [dropEntry]
  simp only [failWrite, hentry, dropWrite] <;> rfl

/-- A first write of the job at the head fails. -/
theorem State.LawIn.failWrite (h : State.LawIn { s with jobs := s.jobs.tail } (.plain origin false)) {slot : Slot}
    {page : LP} {target : PF} (hentry : ∃ e ∈ (s.session slot).shadows, e.page = page ∧ e.frame = target)
    (hjob : ∀ j ∈ s.jobs.tail, j.session? ≠ some slot) (hwait : ∀ w ∈ s.waits, w.slot ≠ slot) (origin' : Origin) :
    (failWrite slot page target origin' s).LawIn (.plain origin false) := by
  obtain ⟨e, he, rfl, rfl⟩ := hentry
  have hdrop := h.dropWrite (slot := slot) rfl he hjob
  have hoffer := hdrop.offerClaim (Scope.plain_ending origin false) (page := e.page) (by simp [Machine.dropWrite])
  obtain ⟨-, hjobs, hwaits⟩ := offerDown_other (Machine.dropWrite slot e.page e.frame { s with jobs := s.jobs.tail })
    e.page slot (by simpa [Machine.dropWrite, dropEntry] using hwait)
    (Machine.dropWrite slot e.page e.frame { s with jobs := s.jobs.tail }).waits.length
  have hidle := State.LawIn.setIdle (slot := slot) hoffer.1
    (fun j hj hs => hjob j (by simpa [Machine.dropWrite, dropEntry] using hjobs j hj hs) hs) hwaits
  simp only [failWrite_eq]
  split
  · exact hidle.respond _ _
  · exact hidle.queueNotice _ _
  · exact hidle

end

end Sys2Proof.Machine
end

-- ==== The page map law: the grant ====
section
/-! PROOFS. The law through the accesses of the Copy Unit, the Scrubber and the Check Unit, and through a grant of the
store. -/

namespace Sys2Proof.Machine

section
variable {s t : State} {c : Scope} {origin : LP → BitVec 16} {serving : Bool}

/-! ### The Copy Unit's accesses -/

/-- A COPY job whose source is gone starts again from its page's frame (R73). -/
theorem State.LawIn.restartJob (h : s.LawIn c) {job : Job} {rest : List Job} {slot : Slot} {source : PF}
    {write : PendingWrite} {origin' : Origin} (hid : c.session slot = id) (hj : s.jobs = job :: rest)
    (hk : job.kind = .copy slot source write origin') :
    (pinFrame ((unpinFrame source s).entry job.page).frame
      { unpinFrame source s with
        jobs := { job with kind := .copy slot ((unpinFrame source s).entry job.page).frame write origin',
                           progress := .fillRead 0 } :: rest }).LawIn c := by
  obtain ⟨hsession, hsource⟩ := Job.of_kind_copy hk
  obtain ⟨hopen, hact, hentry, hone, -⟩ := h.head_session hj hid hsession
  have hleft := h.leave hj hsource
  have hsess : (unpinFrame source s).session slot = s.session slot := by simp
  have hadd := (hleft.addSessionJob (slot := slot) (page := job.page) (target := job.target) hid (by rw [← hsess] at hopen; exact hopen)
    (by rw [← hsess] at hact; exact hact) (by rw [← hsess] at hentry; exact hentry) hone write origin').2
  refine View.Law.permJobs hadd (jobs := _ :: rest) (List.perm_append_singleton _ _).symm

/-- After a page was poisoned the job at the head is the same, if it is a session job. -/
theorem poisonPage_jobs (s : State) (page : LP) {job : Job} {rest : List Job} (hj : s.jobs = job :: rest)
    (hr : job.isRelocate = false) : ∃ rest', (poisonPage page s).jobs = job :: rest' ∧ ∀ j ∈ rest', j ∈ rest := by
  have herase : ∀ p : LP, ∃ rest', (abandonRelocation page (s.setEntry page { s.entry page with condition := .poisoned })).jobs =
      job :: rest' ∧ ∀ j ∈ rest', j ∈ rest := fun _ => by
    simp only [abandonRelocation_eq, dropRelocation, State.setEntry_jobs]
    split
    · exact ⟨rest, hj, fun _ hm => hm⟩
    · refine ⟨rest.eraseP fun j => j.isRelocate && decide (j.page = page), ?_, fun j hm => List.mem_of_mem_eraseP hm⟩
      rw [(releaseFrame_frame ..).2.2.2.2.2.2.2.2.2.2.2.2.2.1]
      split <;> simp [hj, hr]
  simp only [poisonPage]
  split
  · exact herase page
  · exact ⟨rest, hj, fun _ hm => hm⟩

/-- The session job at the head of the queue, its source unpinned, fails with its write. -/
theorem State.LawIn.failHead (h : s.LawIn (.plain origin false)) {job : Job} {rest : List Job} {slot : Slot} {source : PF}
    {write : PendingWrite} {origin' : Origin} (hj : s.jobs = job :: rest) (hk : job.kind = .copy slot source write origin') :
    (Machine.failWrite slot job.page job.target origin' (unpinFrame source s)).LawIn (.plain origin false) := by
  obtain ⟨hsession, hsource⟩ := Job.of_kind_copy hk
  obtain ⟨-, -, hentry, hone, hwait⟩ := h.head_session hj rfl hsession
  have hjobs : (unpinFrame source s).jobs = job :: rest := by simpa using hj
  refine State.LawIn.failWrite ?_ (by simpa using hentry) (by rw [hjobs]; exact hone) (by simpa using hwait) _
  rw [hjobs]
  exact h.leave hj hsource

theorem State.LawIn.copyFails (h : s.LawIn (.plain origin false)) {job : Job} {rest : List Job} {slot : Slot} {source : PF}
    {write : PendingWrite} {origin' : Origin} (hj : s.jobs = job :: rest) (hk : job.kind = .copy slot source write origin')
    (k : WordIx) (syn : Syndrome) : (copyFails job slot source write origin' k syn s).LawIn (.plain origin false) := by
  have hrec := h.uncorrectableRecord source k syn .copy
  have hjrec : (Machine.uncorrectableRecord source k syn .copy s).jobs = job :: rest := by
    simpa [Machine.uncorrectableRecord] using hj
  have hsource := View.Law.copySources h job (by simp [State.viewIn, hj]) slot source write origin' hk
  simp only [Machine.copyFails]
  split
  · split
    · exact hrec.failHead hjrec hk
    · have hjobs : (unpinFrame source (Machine.uncorrectableRecord source k syn .copy s)).jobs.tail = rest := by simp [hjrec]
      rw [hjobs]
      exact hrec.restartJob rfl hjrec hk
  · next hheld =>
    obtain ⟨hmapped, howner⟩ := hsource.resolve_right hheld
    have heffect : Machine.uncorrectableEffect source (s.frame source) (Machine.uncorrectableRecord source k syn .copy s) =
        Machine.poisonPage job.page (Machine.uncorrectableRecord source k syn .copy s) := by
      have hm : (s.frame source).state = .mapped := hmapped
      have ho : (s.frame source).owner = some (.page job.page) := howner
      simp only [Machine.uncorrectableEffect, hm, ho]
    obtain ⟨rest', hj', -⟩ := poisonPage_jobs (Machine.uncorrectableRecord source k syn .copy s) job.page hjrec
      (by simp [Job.isRelocate, hk])
    rw [heffect]
    exact (hrec.poisonPage job.page).failHead hj' hk

theorem State.LawIn.relocateFails (h : s.LawIn (.plain origin serving)) (job : Job) (source : PF) (k : WordIx)
    (syn : Syndrome) : (relocateFails job source k syn s).LawIn (.plain origin serving) := by
  have heffect := (h.uncorrectableRecord source k syn .relocate).uncorrectableEffect source (s.frame source)
  simp only [Machine.relocateFails]
  split
  · exact (heffect.abandonRelocation _).1
  · exact heffect

theorem State.LawIn.fillStep (h : s.LawIn (.plain origin false)) {job : Job} {rest : List Job} (hj : s.jobs = job :: rest)
    {source : PF} (hs : job.source? = some source) (k : WordIx) :
    (fillStep job source k s).LawIn (.plain origin false) := by
  simp only [Machine.fillStep]
  split
  · exact h.setProgress _
  · exact (h.correctableWord ..).setProgress _
  · split
    · next slot source' write origin' hk =>
      have he := (Job.of_kind_copy hk).2
      rw [hs, Option.some.injEq] at he
      exact h.copyFails hj (he ▸ hk) _ _
    · exact h.relocateFails _ _ _ _
    · exact h

theorem State.LawIn.jobStep (h : s.LawIn (.plain origin false)) {job : Job} {rest : List Job} (hj : s.jobs = job :: rest) :
    (jobStep job s).LawIn (.plain origin false) := by
  simp only [Machine.jobStep]
  split
  · split
    · next hs => exact h.fillStep hj hs _
    · exact h
  · exact (h.writeWord _ _ _).setProgress _
  · exact h
  · split
    · next ht => exact (h.placeWord ht).setProgress _
    · exact (h.uncorrectableRecord ..).uncorrectableEffect _ _

/-! ### The scrub read -/

/-- The scrub read in flight lets go of its frame. -/
theorem State.LawIn.dropScrub (h : s.LawIn c) {r : ScrubRead} (hr : s.scrub = some r) :
    (unpinFrame r.frame { s with scrub := none }).LawIn c := by
  refine View.Law.unpinFrame (s := { s with scrub := none }) (readers := s.readers) h fun q => ?_
  have := readers_scrub s none q
  rw [(unpinFrame_background { s with scrub := none } r.frame).readers]
  simp only [hr, Option.map_some, Option.some.injEq, Option.map_none, reduceCtorEq, if_false, eq_comm (a := r.frame)] at this
  omega

theorem State.LawIn.examineFrame (h : s.LawIn c) (pf : PF) : (examineFrame pf s).LawIn c := by
  simp only [Machine.examineFrame]
  split
  · exact h
  · split
    · split
      · exact h.setRelocations _
      · exact h
    · exact h.flagFrame _
    · exact h

theorem State.LawIn.restartTimer (h : s.LawIn c) : (restartTimer s).LawIn c := h.setTimer _

theorem State.LawIn.endScrub (h : s.LawIn c) {r : ScrubRead} (hr : s.scrub = some r) : (endScrub r.frame s).LawIn c :=
  ((h.dropScrub hr).examineFrame _).restartTimer

theorem correctableWord_scrub (s : State) (pf : PF) (k : WordIx) (syn : Syndrome) (data : Word) (context : ReadContext) :
    (correctableWord pf k syn data context s).scrub = s.scrub := by
  simp only [correctableWord]
  split <;> simp [countCorrected]

/-- The scrub read goes on in its frame. -/
theorem State.LawIn.scrubOn (h : s.LawIn c) {r : ScrubRead} (hr : s.scrub = some r) (next : Nat) :
    State.LawIn { s with scrub := some { r with next := next } } c := by
  refine h.of_view rfl fun q => ?_
  have := readers_scrub s (some { r with next := next }) q
  simp only [hr, Option.map_some] at this
  omega

theorem State.LawIn.scrubStep (h : s.LawIn (.plain origin serving)) {r : ScrubRead} (hr : s.scrub = some r) (k : WordIx) :
    (scrubStep r k s).LawIn (.plain origin serving) := by
  simp only [Machine.scrubStep]
  split
  · exact h.scrubOn hr _
  · exact (h.correctableWord ..).scrubOn ((correctableWord_scrub ..).trans hr) _
  · have hrec := h.uncorrectableRecord r.frame k (s.word r.frame k).diff .scrub
    have hscrub := (uncorrectableRecord_background s r.frame k (s.word r.frame k).diff .scrub).scrub.trans hr
    exact (((hrec.dropScrub hscrub).uncorrectableEffect _ _).examineFrame _).restartTimer

/-! ### The grant -/

theorem State.LawIn.clientAccess (h : s.LawIn (.plain origin false)) (position : Nat) :
    (clientAccess position s).LawIn (.plain origin false) := by
  unfold Machine.clientAccess
  split
  · exact h.portAccess _
  · exact h.portAccess _
  · exact h.portAccess _
  · exact h.portAccess _
  · split
    · exact h
    · next hj => exact h.jobStep hj
  · split
    · exact h
    · next hr =>
      split
      · exact h
      · exact h.scrubStep hr _
  · split
    · exact h.setWriteBacks _
    · simp only [writeBackStep]
      split
      · exact (h.setWriteBacks _).writeWord _ _ _
      · exact h.setWriteBacks _
  · exact h

theorem State.LawIn.disturbFor (h : s.LawIn c) (position : Nat) (flips : BitVec 39) (last : Nat) :
    State.LawIn { disturbFor position flips s with lastGranted := last } c := by
  simp only [Machine.disturbFor]
  split
  · exact h
  · exact h

theorem State.LawIn.grant (h : s.LawIn (.plain origin false)) (flips : BitVec 39) :
    (grant flips s).LawIn (.plain origin true) := by
  simp only [Machine.grant]
  split
  · exact h.serve
  · exact ((h.disturbFor _ flips _).clientAccess _).settled_event

end

end Sys2Proof.Machine
end

-- ==== The page map law: the ends of operations ====
section
/-! PROOFS. The law through the ends of READs, jobs, relocations and the initialization sweep. -/

namespace Sys2Proof.Machine

section
variable {s t : State} {c : Scope} {origin : LP → BitVec 16} {serving : Bool}

/-! ### The ends of operations -/

/-- A READ that is answered lets go of its pins. -/
theorem respond_readers {p : PortId} {r : InService} (h : (s.port p).inService = some r) (a : Answer) (pf : PF) :
    (respond p a s).readers pf + r.stage.pins.count pf = s.readers pf := by
  have := s.setPort_holders pf p (PortRec.evalAttn
    { s.port p with responses := (s.port p).responses ++ [⟨r.request.tag, a⟩], inService := none } s.settings p)
  simp only [State.holders_eq, PortRec.pinned_eq, PortRec.evalAttn, h, Option.map_some, Option.getD_some, Option.map_none,
    Option.getD_none, List.count_nil, State.setPort_jobs] at this
  simp only [respond, h, PortRec.evalAttn]
  omega

theorem State.LawIn.readDone (h : s.LawIn c) {p : PortId} {r : InService} (hr : (s.port p).inService = some r)
    {pins : List PF} (hs : r.stage.pins = pins) (a : Answer) : (Machine.respond p a (unpinAll pins s)).LawIn c := by
  have hserv := (unpinAll_background s pins).inService (p := p) |>.trans hr
  rw [State.LawIn, respond_viewIn]
  refine View.Law.unpinAll h fun q => ?_
  have := respond_readers hserv a q
  rw [hs, (unpinAll_background s pins).readers] at this
  exact le_of_eq this

theorem State.LawIn.completeJob (h : s.LawIn (.plain origin false)) {job : Job} {rest : List Job} {slot : Slot}
    (hj : s.jobs = job :: rest) (hs : job.session? = some slot) (origin' : Origin) :
    (completeJob job slot origin' s).LawIn (.plain origin false) := by
  obtain ⟨-, -, -, hone, hwait⟩ := h.head_session hj rfl hs
  have hleft := h.dropJob_unpin (before := []) hj
  simp only [List.nil_append] at hleft
  have hidle : (modifySession slot (fun r => { r with activity := .idle }) (match job.source? with
      | none => { s with jobs := rest }
      | some source => unpinFrame source { s with jobs := rest })).LawIn (.plain origin false) := by
    refine State.LawIn.setIdle ?_ ?_ ?_
    · exact hleft
    · split
      · exact hone
      · simpa using hone
    · split
      · exact hwait
      · simpa using hwait
  have hrest : s.jobs.tail = rest := by simp [hj]
  simp only [Machine.completeJob, hrest]
  split
  · exact hidle.respond _ _
  · exact hidle.queueNotice _ _
  · exact hidle

/-- An unused frame that a reader lets go of is flagged and released. -/
theorem View.Law.retireSource {readers : PF → Nat} (h : (s.viewIn c readers).Law) {source : PF}
    (hu : (s.viewIn c readers).Unused source) (hr : ∀ q, s.readers q + (if q = source then 1 else 0) ≤ readers q) :
    (Machine.releaseFrame source (Machine.flagFrame source (Machine.unpinFrame source s))).LawIn c := by
  have hunpin : (Machine.unpinFrame source s).LawIn c := View.Law.unpinFrame h fun q => by
    rw [(unpinFrame_background s source).readers]
    exact hr q
  refine (hunpin.flagFrame source).releaseFrame ?_
  rw [flagFrame, setFrame_viewIn_of_not_freed _ _ _ (by exact id), unpinFrame_viewIn]
  exact ⟨hu.page, hu.shadow, hu.moving⟩

/-- The switch at the end of a relocation keeps the law. -/
theorem State.LawIn.switchRelocation (h : s.LawIn c) {job : Job} {rest : List Job} {source : PF}
    (hj : s.jobs = job :: rest) (hk : job.kind = .relocate source) :
    (switchRelocation job.page source job.target s).LawIn c := by
  obtain ⟨hsource, -, hmoving⟩ := View.Law.relocateJobs h job (by simp [State.viewIn, hj]) source hk
  obtain rfl : source = (s.entry job.page).frame := hsource
  have hothers : ∀ j ∈ rest, j.isRelocate = false :=
    View.Law.only_relocate (before := []) h hj (Job.of_kind_relocate hk).2.1
  have hdrop := h.dropJob (before := []) hj
  simp only [List.nil_append, (Job.of_kind_relocate hk).1] at hdrop
  have hunused := View.Law.unused_of_moving hdrop hmoving fun j hm hr => absurd hr (by simp [hothers j hm])
  obtain ⟨hmap, hold⟩ := View.Law.remapFrame hdrop (page := job.page)
    (e := { s.entry job.page with frame := job.target, relocating := false }) hunused (.inr hmoving) rfl rfl
    (fun j hm hr => absurd hr (by simp [hothers j hm])) (.inl rfl)
  have hrest : s.jobs.tail = rest := by simp [hj]
  rw [← appendRecord_viewIn _ _ _ .relocated (s.entry job.page).frame none none (some .relocate) (some job.page) none] at hmap hold
  simp only [Machine.switchRelocation, hrest]
  refine hmap.retireSource hold fun q => ?_
  rw [(((jobs_background s rest).trans ((setEntry_background _ job.page _).trans (mapFrame_background ..))).trans
      (appendRecord_background ..)).readers]
  simp [eq_comm]

/-! ### The initialization sweep -/

theorem State.LawIn.sweepEnded (h : s.LawIn c) : (sweepEnded s).LawIn c := by
  refine State.LawIn.restartTimer (State.LawIn.of_view h rfl fun pf => le_of_eq ?_)
  have hports : ∀ p, (State.port { s with
      phase := .running, ports := s.ports.map fun r => { r with ready := true } } p).pinned = (s.port p).pinned := fun p => by
    simp [State.port, PortRec.pinned_eq]
  simp only [State.readers, hports]

end

end Sys2Proof.Machine
end

-- ==== The device reset ====
section
/-! PROOFS. The values after a device reset, record by record, and the laws that they meet. -/

namespace Sys2Proof.Machine

theorem tableOf_getElem {α : Type} {n : Nat} (f : Fin n → α) (i : Fin n) : (tableOf n f)[i] = f i := by
  simp [tableOf]

@[simp] theorem reset_entry (page : LP) : State.reset.entry page = MapEntry.reset page := tableOf_getElem _ page

@[simp] theorem reset_frame (pf : PF) : State.reset.frame pf = FrameRec.reset pf := tableOf_getElem _ pf

@[simp] theorem reset_session (slot : Slot) : State.reset.session slot = SessionRec.reset := by
  fin_cases slot <;> rfl

@[simp] theorem reset_group (g : GroupIx) : State.reset.group g = GroupRec.reset := by
  fin_cases g <;> rfl

@[simp] theorem reset_port (p : PortId) : State.reset.port p = PortRec.reset := by
  fin_cases p <;> rfl

theorem reset_frame_state (pf : PF) : (FrameRec.reset pf).state = if pf.val < 256 then .mapped else .free := by
  simp only [FrameRec.reset]
  split <;> rfl

theorem poolReset_val : poolReset.map Fin.val = List.range' 256 256 := by
  rw [poolReset, List.map_map, show (Fin.val ∘ Fin.natAdd 256 : Fin 256 → Nat) = (256 + ·) ∘ Fin.val from rfl,
    ← List.map_map, List.map_coe_finRange_eq_range, ← List.range'_eq_map_range]

theorem reset_settings (p : PortId) : State.reset.settings.quotas[p] = 2 ∧ State.reset.settings.respMask[p] = true ∧
    State.reset.settings.noteMask[p] = true ∧ State.reset.settings.faultNotices[p] = false := by
  fin_cases p <;> exact ⟨rfl, rfl, rfl, rfl⟩

/-! ### The laws at reset -/

theorem reset_creditLaw : State.reset.CreditLaw := fun p => by simp [PortRec.CreditLaw, PortRec.reset]

theorem reset_queueLaw : State.reset.QueueLaw := fun p => by simp [PortRec.waiting, PortRec.reset]

theorem reset_attnLaw : State.reset.AttnLaw := fun p => by simp [PortRec.reset]

theorem reset_noticeLaw : State.reset.NoticeLaw := fun p => by simp [PortRec.reset]

theorem reset_watchLaw : State.reset.WatchLaw := fun p => by simp [PortRec.reset]

theorem reset_poolLaw : State.reset.PoolLaw := by
  have hmem : ∀ pf : PF, pf ∈ poolReset ↔ 256 ≤ pf.val := fun pf => by
    have hval : pf ∈ poolReset ↔ pf.val ∈ poolReset.map Fin.val :=
      (List.mem_map_of_injective Fin.val_injective).symm
    rw [hval, poolReset_val, List.mem_range'_1]
    exact ⟨And.left, fun h => ⟨h, pf.isLt⟩⟩
  refine ⟨.of_map Fin.val ?_, fun pf => ?_⟩
  · rw [show State.reset.pool = poolReset from rfl, poolReset_val]
    exact List.nodup_range'
  · rw [show State.reset.pool = poolReset from rfl, hmem, reset_frame, reset_frame_state]
    by_cases hpf : pf.val < 256
    · simp [hpf]
    · simp [hpf, Nat.le_of_not_lt hpf]

theorem reset_countLaw : State.reset.CountLaw := fun pf => by
  rw [reset_frame, FrameRec.reset]
  split <;> exact Nat.zero_le _

theorem reset_quotaLaw : State.reset.QuotaLaw := fun p => by
  have hnone : State.reset.sessionsOf p = [] := by simp [State.sessionsOf, SessionRec.reset]
  simp [hnone]

theorem reset_settingsLaw : State.reset.SettingsLaw :=
  ⟨by decide, ⟨by decide, by decide⟩, ⟨by decide, by decide⟩, fun p => by simp [(reset_settings p).1]⟩

theorem reset_groupLaw : State.reset.GroupLaw := fun g => by simp [GroupRec.reset]

/-- Without a request in service or a scrub read no frame has a reader. -/
theorem readers_eq_zero {s : State} (hp : ∀ p, (s.port p).inService = none) (hs : s.scrub = none) (pf : PF) :
    s.readers pf = 0 := by
  simp [State.readers, PortRec.pinned_of_none (hp _), hs]

theorem reset_readers (pf : PF) : State.reset.readers pf = 0 :=
  readers_eq_zero (fun p => by rw [reset_port]; rfl) rfl pf

/-- A device reset maps every page to the frame of its number and leaves nothing that holds a frame, a page or a session. -/
theorem reset_pageMapLaw : State.reset.PageMapLaw where
  pool := reset_poolLaw
  mapped page := by
    simp [MapEntry.reset, FrameRec.reset]
  shadows slot e he := by simp [SessionRec.reset] at he
  shadowFrames slot := by simp [SessionRec.reset]
  shadowPages slot := by simp [SessionRec.reset]
  freeShadows slot _ := by simp [SessionRec.reset]
  claims page slot := by simp [MapEntry.reset, SessionRec.reset]
  sessionJobs j hj := absurd hj (List.not_mem_nil)
  copySources j hj := absurd hj (List.not_mem_nil)
  pins pf := by
    rw [State.holders_eq, reset_readers]
    exact Nat.zero_le _
  oneJob := List.nodup_nil
  relocateJobs j hj := absurd hj (List.not_mem_nil)
  oneRelocation := Nat.zero_le _
  waiters w hw := absurd hw (List.not_mem_nil)
  oneWait := List.nodup_nil
  members g := by simp [GroupRec.reset]

/-- Settles O2: each value is read off the reset record, and each law holds of empty lists or of the one table it speaks of. -/
theorem resetState : Obligations.ResetState :=
  ⟨reset_entry, reset_frame, poolReset_val, reset_session, reset_group, reset_port,
   ⟨rfl, rfl, rfl, reset_settings⟩, ⟨rfl, rfl, rfl, rfl, rfl, rfl, rfl, rfl, rfl⟩,
   reset_creditLaw, reset_queueLaw, reset_attnLaw, reset_noticeLaw, reset_watchLaw, reset_poolLaw, storeWf_reset,
   reset_countLaw, reset_quotaLaw, reset_settingsLaw, reset_groupLaw, ⟨Nat.zero_le _, rfl⟩,
   ⟨List.nodup_nil, Nat.zero_le _, Nat.zero_le _⟩, reset_pageMapLaw⟩

/-- The state after a DEVICE_RESET. -/
def State.resetFrom (s : State) : State :=
  { State.reset with
    store := s.store, ports := s.ports.map PortRec.deviceReset, draws := s.draws, pending := s.pending }

theorem exec_deviceReset (s : State) : exec .deviceReset s = .next s.resetFrom := rfl

theorem resetFrom_port (s : State) (p : PortId) : s.resetFrom.port p =
    { PortRec.reset with wire := if (s.port p).wire = .idle then .idle else .disregarded } :=
  Vector.getElem_map ..

/-- Settles O3: the state after the reset is the reset state but for the store, the wires, the draw counter and the queue. -/
theorem deviceResetReturnsRecords : Obligations.DeviceResetReturnsRecords := fun s =>
  ⟨s.resetFrom, exec_deviceReset s, rfl, rfl, rfl, rfl, rfl, rfl, rfl, rfl, rfl, rfl, rfl, rfl, rfl, rfl, rfl, rfl, rfl,
    fun p => by rw [resetFrom_port, reset_port], rfl, rfl⟩

/-- The law after a DEVICE_RESET is that of the reset state. -/
theorem resetFrom_pageMapLaw (s : State) : s.resetFrom.PageMapLaw := by
  have hreaders : ∀ pf, s.resetFrom.readers pf = 0 :=
    readers_eq_zero (fun p => by rw [resetFrom_port]; rfl) rfl
  have hlaw : s.resetFrom.LawIn (.plain (fun page => (State.reset.entry page).version) false) :=
    State.LawIn.of_view (reset_pageMapLaw.lawIn false) rfl fun pf => (hreaders pf).le.trans (Nat.zero_le _)
  exact hlaw.pageMapLaw

end Sys2Proof.Machine
end

-- ==== The page map law over every command ====
section
/-! PROOFS. Every command keeps the page map law and steps a version at most once: the laws of the events, put together over
the rows; and no edit takes a version back to 0. -/

namespace Sys2Proof.Machine

section
variable {s t : State} {c : Scope} {origin : LP → BitVec 16}

/-- What a command's event keeps when it is taken only where its condition stands. -/
theorem State.LawIn.readCompletion (h : s.LawIn (.plain origin false)) (p : PortId) :
    ∃ t, execReadCompletion p s = .next t ∧ t.LawIn (.plain origin true) := by
  refine ⟨_, rfl, ?_⟩
  split
  · next hr => exact (h.readDone hr rfl _).settled_event
  · exact h.serve

theorem State.LawIn.writePlacementEnd (h : s.LawIn (.plain origin false)) (p : PortId) :
    ∃ t, execWritePlacementEnd p s = .next t ∧ t.LawIn (.plain origin true) := by
  refine ⟨_, rfl, ?_⟩
  split
  · exact State.LawIn.settle (h.respond _ _).serve
  · exact h.serve

theorem State.LawIn.jobCompletion (h : s.LawIn (.plain origin false)) :
    ∃ t, execJobCompletion s = .next t ∧ t.LawIn (.plain origin true) := by
  refine ⟨_, rfl, ?_⟩
  split
  · next hj => exact (h.completeJob hj rfl _).settled_event
  · next hj => exact (h.completeJob hj rfl _).settled_event
  · exact h.serve

theorem State.LawIn.relocationSwitch (h : s.LawIn (.plain origin false)) :
    ∃ t, execRelocationSwitch s = .next t ∧ t.LawIn (.plain origin true) := by
  refine ⟨_, rfl, ?_⟩
  split
  · next hj => exact (h.switchRelocation hj rfl).settled_event
  · exact h.serve

theorem State.LawIn.scrubVisit (h : s.LawIn (.plain origin false)) :
    ∃ t, execScrubVisit s = .next t ∧ t.LawIn (.plain origin true) := by
  refine ⟨_, rfl, ?_⟩
  split
  · exact h.visitFrame.serve
  · exact h.serve

theorem State.LawIn.scrubReadEnd (h : s.LawIn (.plain origin false)) :
    ∃ t, execScrubReadEnd s = .next t ∧ t.LawIn (.plain origin true) := by
  refine ⟨_, rfl, ?_⟩
  split
  · exact h.serve
  · next hr =>
    split
    · exact h.serve
    · exact (h.endScrub hr).settled_event

/-- A frame with a check byte is judged by its own rule. -/
theorem State.LawIn.checkedRelease (h : s.LawIn c) (p : PortId) (code : Byte) (sent : List Byte)
    {act : Bool → Nat → State → State} (ha : ∀ held len t, t.LawIn c → (act held len t).LawIn c) :
    (Machine.releaseWire p code sent.length (fun held len => Machine.checkedFrame p sent (act held len)) s).LawIn c :=
  h.releaseWire _ _ _ fun held len t ht => ht.checkedFrame p sent (ha held len t ht)

/-- Every command but a device reset keeps the law, and steps a version at most once from where it stood. -/
theorem State.PageMapLaw.exec (h : s.PageMapLaw) {i : Instr} (hi : i ≠ .deviceReset) :
    ∃ t, Machine.exec i s = .next t ∧ t.LawIn (.plain (fun page => (s.entry page).version) true) := by
  have hearly := h.lawIn false
  have hserving := h.lawIn true
  cases i with
  | deviceReset => exact absurd rfl hi
  | initializationSweep =>
    refine ⟨_, rfl, ?_⟩
    split
    · exact hserving.setStore []
    · exact hserving
    · exact hserving
  | sweepEnd =>
    refine ⟨_, rfl, ?_⟩
    split
    · exact hserving
    · exact hserving.sweepEnded
    · exact hserving
  | tick => exact ⟨_, rfl, hearly.lowerBudgets.expireSessions.tickTimer.settled_event⟩
  | expiry => exact ⟨_, rfl, hearly.expireSessions.settled_event⟩
  | request port sent => exact ⟨_, rfl, hserving.releaseWire _ _ _ fun _ _ _ ht => ht.judged _ _⟩
  | fetch port sent =>
    refine ⟨_, rfl, hserving.checkedRelease port _ sent fun held len t ht => ?_⟩
    split
    · exact ht.completeFetch port
    · exact ht
  | note port sent =>
    refine ⟨_, rfl, hserving.checkedRelease port _ sent fun held len t ht => ?_⟩
    split
    · exact ht.completeNote port
    · exact ht
  | pstat port sent =>
    refine ⟨_, rfl, hserving.checkedRelease port _ sent fun held len t ht => ?_⟩
    split
    · exact ht.completePstat port
    · exact ht
  | preset port sent => exact ⟨_, rfl, hserving.checkedRelease port _ sent fun _ _ _ ht => ht.resetPort port⟩
  | unknownFrameCode port code sent =>
    refine ⟨_, rfl, ?_⟩
    split
    · exact hserving
    · exact hserving.releaseWire _ _ _ fun _ _ _ ht => ht.discard _ _
  | openSession port tag group budget => exact ⟨_, rfl, hserving.sendRequest ..⟩
  | abort port tag handle => exact ⟨_, rfl, hserving.sendRequest ..⟩
  | guard port tag handle page version => exact ⟨_, rfl, hserving.sendRequest ..⟩
  | read port tag handle address length => exact ⟨_, rfl, hserving.sendRequest ..⟩
  | write port tag handle address flags data => exact ⟨_, rfl, hserving.sendRequest ..⟩
  | commit port tag handle => exact ⟨_, rfl, hserving.sendRequest ..⟩
  | close port tag group => exact ⟨_, rfl, hserving.sendRequest ..⟩
  | pageInfo port tag page => exact ⟨_, rfl, hserving.sendRequest ..⟩
  | poolInfo port tag => exact ⟨_, rfl, hserving.sendRequest ..⟩
  | sessInfo port tag slot => exact ⟨_, rfl, hserving.sendRequest ..⟩
  | watch port tag page => exact ⟨_, rfl, hserving.sendRequest ..⟩
  | unwatch port tag page => exact ⟨_, rfl, hserving.sendRequest ..⟩
  | setConfig port tag record => exact ⟨_, rfl, hserving.sendRequest ..⟩
  | getConfig port tag => exact ⟨_, rfl, hserving.sendRequest ..⟩
  | logRead port tag seq => exact ⟨_, rfl, hserving.sendRequest ..⟩
  | storeArbiterGrant flips => exact ⟨_, rfl, hearly.grant flips⟩
  | readCompletion port => exact hearly.readCompletion port
  | writePlacementEnd port => exact hearly.writePlacementEnd port
  | jobCompletion => exact hearly.jobCompletion
  | relocationSwitch => exact hearly.relocationSwitch
  | relocationStart => exact ⟨_, rfl, hserving.startRelocation⟩
  | scrubVisit => exact hearly.scrubVisit
  | scrubReadEnd => exact hearly.scrubReadEnd
  | frameCodeByteEnd port part =>
    refine ⟨_, rfl, ?_⟩
    cases part with
    | csnAsserted => exact State.LawIn.setPort_same hserving rfl
    | codeByteEnd code => exact hserving.codeFrame port code

end

/-- Settles O54: the law of the start of the event is that of the plain scope, which every row keeps. -/
theorem stepKeepsPageMapLaw : Obligations.StepKeepsPageMapLaw := by
  intro s t h hstep
  simp only [step] at hstep
  split at hstep
  · cases hstep; exact h
  · next i rest _ =>
    have hrest : State.PageMapLaw { s with pending := rest } := { h with pool := h.pool, pins := h.pins }
    by_cases hi : i = .deviceReset
    · subst hi
      rw [exec_deviceReset] at hstep
      cases hstep
      exact resetFrom_pageMapLaw _
    · obtain ⟨u, hu, hl⟩ := hrest.exec hi
      rw [hu] at hstep
      cases hstep
      exact hl.pageMapLaw

/-! ### No version becomes 0 again -/

theorem nextVersion_ne_zero (v : BitVec 16) : nextVersion v ≠ 0 := by
  simp only [nextVersion]
  split
  · decide
  · next h => bv_omega

/-- Only a switch changes a version, and to one that is not 0. -/
theorem Edit.version_ne_zero {page : LP} (s t : State) (h : Edit s t) (hv : (s.entry page).version ≠ 0) :
    (t.entry page).version ≠ 0 := by
  have hset : ∀ (q : LP) (e : MapEntry), (e.version = (s.entry q).version ∨ e.version ≠ 0) →
      ((s.setEntry q e).entry page).version ≠ 0 := fun q e he => by
    rw [State.setEntry_entry]
    split
    · next hq =>
      rcases he with he | he
      · rw [he, ← hq]; exact hv
      · exact he
    · exact hv
  cases h with
  | claim page' c => exact hset page' _ (.inl rfl)
  | poison page' => exact hset page' _ (.inl rfl)
  | relocating page' b => exact hset page' _ (.inl rfl)
  | move page' pf => exact hset page' _ (.inl rfl)
  | switch page' pf => exact hset page' _ (.inr (nextVersion_ne_zero _))
  | allocate _ state owner pf hs ha =>
    simp only [Machine.allocate] at ha
    split at ha
    · cases ha
    · cases ha; exact hv
  | configure record timer hr hf =>
    have hmap : ∀ u : State, (evalAllAttn u).map = u.map := fun u => by
      unfold evalAllAttn
      exact foldl_keeps State.map _ (fun t p => State.setPort_map ..) _ _
    simpa only [State.entry, hmap] using hv
  | notice p body => simpa using hv
  | respond p a => simpa using hv
  | service p session stage => simpa using hv
  | discard p cause => simpa using hv
  | fetch p =>
    simp only [completeFetch]
    split <;> exact hv
  | _ => exact hv

/-- Settles O59: the law in the plain scope says the first half; the second holds of every edit. -/
theorem versionsOnlyStep : Obligations.VersionsOnlyStep := by
  intro i s t page hi hexec
  refine ⟨fun h => ?_, fun hv => ?_⟩
  · obtain ⟨u, hu, hl⟩ := h.exec hi
    rw [hu] at hexec
    cases hexec
    exact (View.Law.versions hl page).imp id fun hstep => hstep.2.1
  · by_cases hsweep : i = .initializationSweep
    · subst hsweep
      cases hexec
      split <;> exact hv
    · by_cases hend : i = .sweepEnd
      · subst hend
        cases hexec
        split <;> exact hv
      · obtain ⟨u, hu, hedits⟩ := exec_edits s i hi hsweep hend
        rw [hu] at hexec
        cases hexec
        exact Edits.keeps Edit.version_ne_zero hedits hv

end Sys2Proof.Machine
end

-- ==== Reports ====
section
/-! PROOFS. A request that is answered in the event that takes it, the state otherwise as it was. -/

namespace Sys2Proof.Machine

/-- A request whose service is one answer leaves the answered state. -/
theorem sendRequest_answered {s : State} {p : PortId} {r : Request} {a : Answer} (hp : s.PortFree p)
    (hw : r.op.wellFormed = true)
    (ha : serve p r.op (s.serving p r none .atOnce) = respond p a (s.serving p r none .atOnce)) :
    sendRequest p r s = s.answered p r a := by
  rw [sendRequest_of_free hp hw, ha, respond_serving, settleUpTo_of_queueLaw (answered_queueLaw hp r a)]

@[simp] theorem State.serving_session (s : State) (p : PortId) (r : Request) (session : Option Slot) (stage : Stage)
    (slot : Slot) : (s.serving p r session stage).session slot = s.session slot := rfl

theorem pageReport_eq (s : State) (page : LP) : pageReport s page =
    { page := page, frame := (s.entry page).frame, version := (s.entry page).version,
      condition := (s.entry page).condition, claim := (s.entry page).claim.map s.handle,
      relocating := (s.entry page).relocating, parked := (s.waits.filter fun w => w.page = page).length } := by
  simp [pageReport, List.countP_eq_length_filter]

theorem poolReport_eq (s : State) : poolReport s =
    { free := (s.frames.toList.filter fun f => f.state = .free).length
      mapped := (s.frames.toList.filter fun f => f.state = .mapped).length
      shadow := (s.frames.toList.filter fun f => f.state = .shadow).length
      held := (s.frames.toList.filter fun f => f.state = .held).length
      moving := (s.frames.toList.filter fun f => f.state = .moving).length
      retired := (s.frames.toList.filter fun f => f.state = .retired).length
      poolLength := s.pool.length, relocationLength := s.relocations.length } := by
  simp only [poolReport, State.frameCount, List.countP_eq_length_filter]

theorem hasJob_eq_decide (s : State) (slot : Slot) : s.hasJob slot = decide (∃ j ∈ s.jobs, j.session? = some slot) := by
  rw [Bool.eq_iff_iff]
  simp [State.hasJob]

theorem sessionReport_eq (s : State) (slot : Slot) : sessionReport s slot =
    { handle := s.handle slot, state := (s.session slot).state, port := (s.session slot).port,
      group := (s.session slot).group, budget := (s.session slot).budget, activity := (s.session slot).activity,
      shadows := (s.session slot).shadows.length,
      zeroed := ((s.session slot).shadows.filter fun e => e.zeroed).length,
      job := decide (∃ j ∈ s.jobs, j.session? = some slot), guards := (s.session slot).guards.length,
      waitPage := (s.session slot).waitPage } := by
  simp only [sessionReport, hasJob_eq_decide, List.countP_eq_length_filter]

/-- Settles O20: each report is read off the state that stands, which the service of the request leaves as it was. -/
theorem reportsChangeNothing : Obligations.ReportsChangeNothing := by
  intro p tag s hp
  refine ⟨fun page => ?_, ?_, fun slot => ?_, fun slot hslot => ?_⟩
  · refine congrArg Host.Outcome.next (sendRequest_answered hp rfl ?_)
    rw [← pageReport_eq]
    rfl
  · refine congrArg Host.Outcome.next (sendRequest_answered hp rfl ?_)
    rw [← poolReport_eq]
    rfl
  · refine congrArg Host.Outcome.next (sendRequest_answered hp rfl ?_)
    have hval : (BitVec.ofNat 8 slot.val).toNat = slot.val := by
      rw [BitVec.toNat_ofNat]
      exact Nat.mod_eq_of_lt (slot.isLt.trans (by decide))
    have hlt : (BitVec.ofNat 8 slot.val).toNat < 8 := by rw [hval]; exact slot.isLt
    have hslot : (⟨(BitVec.ofNat 8 slot.val).toNat, hlt⟩ : Slot) = slot := Fin.ext hval
    simp only [serve, serveSessInfo, dif_pos hlt, hslot]
    rw [← sessionReport_eq]
    rfl
  · refine congrArg Host.Outcome.next (sendRequest_answered hp rfl ?_)
    have hge : ¬ slot.toNat < 8 := by omega
    simp only [serve, serveSessInfo, dif_neg hge]

end Sys2Proof.Machine
end

-- ==== The start of a relocation ====
section
/-! PROOFS. When the head page of the relocation list gets a target, and what the start does (R141). -/

namespace Sys2Proof.Machine

/-- What keeps the head page of the relocation list waiting (R141). -/
def State.RelocationWaits (s : State) (page : LP) : Prop :=
  (∃ j ∈ s.jobs, j.isRelocate = true) ∨ s.pool = [] ∨ ∃ k, s.scrub = some ⟨(s.entry page).frame, k⟩

theorem relocationWaits_iff (s : State) (page : LP) : s.RelocationWaits page ↔
    (s.jobs.any Job.isRelocate) = true ∨ s.pool = [] ∨ s.scrub.map ScrubRead.frame = some (s.entry page).frame := by
  have hscrub : s.scrub.map ScrubRead.frame = some (s.entry page).frame ↔
      ∃ k, s.scrub = some ⟨(s.entry page).frame, k⟩ := by
    rw [Option.map_eq_some_iff]
    constructor
    · rintro ⟨⟨pf, k⟩, hr, rfl⟩
      exact ⟨k, hr⟩
    · rintro ⟨k, hr⟩
      exact ⟨_, hr, rfl⟩
  rw [State.RelocationWaits, hscrub, List.any_eq_true]

theorem relocationDue_of_waits {s : State} {page : LP} {others : List LP} (h : s.relocations = page :: others)
    (hw : s.RelocationWaits page) : relocationDue s = none := by
  simp only [relocationDue, h, if_pos ((relocationWaits_iff s page).mp hw)]

theorem relocationDue_of_not_waits {s : State} {page : LP} {others : List LP} (h : s.relocations = page :: others)
    (hw : ¬ s.RelocationWaits page) : relocationDue s = some page := by
  simp only [relocationDue, h, if_neg (mt (relocationWaits_iff s page).mpr hw)]

theorem relocationDue_nil {s : State} (h : s.relocations = []) : relocationDue s = none := by
  simp only [relocationDue, h]

/-- Settles O47: the conditions decide whether the head page is due, and the start is the model's, its updates in the
statement's order. -/
theorem relocationStartTakesHead : Obligations.RelocationStartTakesHead := by
  intro page others s hlist
  refine ⟨fun hc => ?_, fun pf rest hjobs hpool hscrub hne => ?_⟩
  · exact congrArg Host.Outcome.next (startRelocation_of_none (relocationDue_of_waits hlist hc))
  · have hdue : relocationDue s = some page := by
      refine relocationDue_of_not_waits hlist ?_
      rintro (⟨j, hj, hr⟩ | hp | ⟨k, hk⟩)
      · simp [hjobs j hj] at hr
      · simp [hpool] at hp
      · exact hscrub k hk
    have hsource : (s.setFrame pf { s.frame pf with state := .moving, owner := some (.page page) }).frame
        (s.entry page).frame = s.frame (s.entry page).frame := State.setFrame_frame_of_ne _ _ hne
    refine congrArg Host.Outcome.next ((startRelocation_eq hdue hpool).trans ?_)
    rw [← hsource, hlist]
    rfl

end Sys2Proof.Machine
end

-- ==== The frame operations, case by case ====
section
/-! PROOFS. What a record appended without fault notices, a pin let go and a frame released leave, one equation a case; and
the end of an event at which no page is listed for relocation. -/

namespace Sys2Proof.Machine

/-- The fault log without the record that a new one replaces (R133). -/
def State.trimmedLog (s : State) : List FaultRecord :=
  if s.log.length < Config.logCapacity then s.log else s.log.drop (s.log.length + 1 - Config.logCapacity)

/-- The state after a record joined the fault log, told to no port. -/
def State.logged (s : State) (r : FaultRecord) : State :=
  { s with log := s.trimmedLog ++ [r], nextSeq := s.nextSeq + 1 }

/-- No port has fault notices on (R153). -/
def State.NoFaultNotices (s : State) : Prop := ∀ p : PortId, s.settings.faultNotices[p] = false

section
variable {s : State}

theorem faultNotices_of_none (hn : s.NoFaultNotices) (seq : BitVec 16) (kind : FaultKind) :
    faultNotices seq kind s = s := by
  have hl : ∀ l : List PortId, l.foldl (fun t p =>
      if s.settings.faultNotices[p] then queueNotice p (.fault seq kind) t else t) s = s := fun l => by
    induction l with
    | nil => rfl
    | cons p l ih =>
      rw [List.foldl_cons, if_neg (by simp [hn p])]
      exact ih
  exact hl _

/-- A record that no port is told of changes the log alone. -/
theorem appendRecord_of_no_notices (hn : s.NoFaultNotices) (kind : FaultKind) (pf : PF) (word : Option WordIx)
    (syn : Option Syndrome) (context : Option ReadContext) (page : Option LP) (handle : Option Handle) :
    appendRecord kind pf word syn context page handle s = s.logged
      { seq := s.nextSeq, kind := kind, frame := pf, word := word, syndrome := syn, context := context, page := page,
        handle := handle } := by
  obtain ⟨u, hu⟩ : ∃ u, u = s.logged
      { seq := s.nextSeq, kind := kind, frame := pf, word := word, syndrome := syn, context := context, page := page,
        handle := handle } := ⟨_, rfl⟩
  have hnu : u.NoFaultNotices := by rw [hu]; exact hn
  rw [← hu, ← faultNotices_of_none hnu s.nextSeq kind, hu]
  rfl

/-- The newest record before an append stays behind the new one. -/
theorem trimmedLog_logged (s : State) (r : FaultRecord) : ∃ kept, (s.logged r).trimmedLog = kept ++ [r] := by
  have hlog : (s.logged r).log = s.trimmedLog ++ [r] := rfl
  rw [State.trimmedLog, hlog]
  split
  · exact ⟨_, rfl⟩
  · refine ⟨_, List.drop_append_of_le_length ?_⟩
    simp only [List.length_append, List.length_singleton, Config.logCapacity]
    omega

theorem mapFrame_of_shadow {pf : PF} (h : (s.frame pf).state = .shadow ∨ (s.frame pf).state = .moving) (page : LP) :
    mapFrame pf page s = s.setFrame pf { s.frame pf with state := .mapped, owner := some (.page page) } := if_pos h

/-! ### A pin let go -/

/-- A pin that is not the last of a HELD frame is only counted off. -/
theorem unpinFrame_of_stays {pf : PF} (h : (s.frame pf).state = .held → 2 ≤ (s.frame pf).pins) :
    unpinFrame pf s = s.setFrame pf { s.frame pf with pins := (s.frame pf).pins - 1 } := by
  simp only [unpinFrame, State.setFrame_frame_self]
  refine if_neg fun ⟨hheld, hpins⟩ => ?_
  have := h hheld
  omega

theorem unpinFrame_of_not_held {pf : PF} (h : (s.frame pf).state ≠ .held) :
    unpinFrame pf s = s.setFrame pf { s.frame pf with pins := (s.frame pf).pins - 1 } :=
  unpinFrame_of_stays fun hheld => absurd hheld h

/-- The last pin of a HELD frame without the flag frees it. -/
theorem unpinFrame_frees {pf : PF} (hheld : (s.frame pf).state = .held) (hpins : (s.frame pf).pins ≤ 1)
    (hflag : (s.frame pf).retireOnRelease = false) :
    unpinFrame pf s =
      { s.setFrame pf { s.frame pf with state := .free, owner := none, pins := 0 } with pool := s.pool ++ [pf] } := by
  have hzero : (s.frame pf).pins - 1 = 0 := by omega
  simp only [unpinFrame, State.setFrame_frame_self, hzero]
  rw [if_pos ⟨hheld, trivial⟩, if_neg (by simp [hflag])]
  simp only [freeFrame, State.setFrame_frame_self, State.setFrame_setFrame]
  rfl

/-- The last pin of a flagged HELD frame retires it; its record names neither page nor handle. -/
theorem unpinFrame_retires {pf : PF} (hheld : (s.frame pf).state = .held) (hpins : (s.frame pf).pins ≤ 1)
    (hflag : (s.frame pf).retireOnRelease = true) (hn : s.NoFaultNotices) :
    unpinFrame pf s =
      (s.setFrame pf { s.frame pf with state := .retired, owner := none, pins := 0 }).logged
        { seq := s.nextSeq, kind := .retired, frame := pf, word := none, syndrome := none, context := none, page := none,
          handle := none } := by
  have hzero : (s.frame pf).pins - 1 = 0 := by omega
  simp only [unpinFrame, State.setFrame_frame_self, hzero]
  rw [if_pos ⟨hheld, trivial⟩, if_pos hflag, retireFrame]
  simp only [State.recordPage, State.recordHandle, State.setFrame_frame_self, State.setFrame_setFrame, hheld]
  exact appendRecord_of_no_notices (s := s.setFrame pf _) hn ..

/-! ### A frame released -/

theorem releaseFrame_frees {pf : PF} (hr : (s.frame pf).state.releasable = true) (hp : (s.frame pf).pins = 0)
    (hf : (s.frame pf).retireOnRelease = false) : releaseFrame pf s =
      { s.setFrame pf { s.frame pf with state := .free, owner := none } with pool := s.pool ++ [pf] } := by
  rw [releaseFrame, if_pos hr, if_neg (by simp [hp]), if_neg (by simp [hf])]
  rfl

/-- A flagged MAPPED frame without pins is RETIRED; its record names its page. -/
theorem releaseFrame_retires_mapped {pf : PF} {page : LP} (hs : (s.frame pf).state = .mapped)
    (ho : (s.frame pf).owner = some (.page page)) (hp : (s.frame pf).pins = 0) (hf : (s.frame pf).retireOnRelease = true)
    (hn : s.NoFaultNotices) : releaseFrame pf s =
      (s.setFrame pf { s.frame pf with state := .retired, owner := none }).logged
        { seq := s.nextSeq, kind := .retired, frame := pf, word := none, syndrome := none, context := none,
          page := some page, handle := none } := by
  have hr : (s.frame pf).state.releasable = true := by rw [hs]; rfl
  rw [releaseFrame, if_pos hr, if_neg (by simp [hp]), if_pos hf, retireFrame]
  simp only [State.recordPage, State.recordHandle, hs, ho]
  exact appendRecord_of_no_notices (s := s.setFrame pf _) hn ..

/-! ### Events with no page listed for relocation -/

theorem endEvent_of_unlisted (hr : s.relocations = []) (hq : s.QueueLaw) : endEvent s = s :=
  endEvent_of_quiet ⟨relocationDue_nil hr, hq⟩

end

end Sys2Proof.Machine
end

-- ==== The relocation switch ====
section
/-! PROOFS. The switch at the end of a relocation, written out as the updates it comes to (R143). -/

namespace Sys2Proof.Machine

/-- The records of a switch: the relocation, and the retirement of the source. -/
def relocatedRecord (seq : BitVec 16) (source : PF) (page : LP) : FaultRecord :=
  { seq := seq, kind := .relocated, frame := source, word := none, syndrome := none, context := some .relocate,
    page := some page, handle := none }

def retiredRecord (seq : BitVec 16) (source : PF) (page : LP) : FaultRecord :=
  { seq := seq, kind := .retired, frame := source, word := none, syndrome := none, context := none, page := some page,
    handle := none }

/-- The state after the switch of a page from a source that the job alone pinned. -/
def State.switched (s : State) (page : LP) (source target : PF) (rest : List Job) : State :=
  ((((({ s with jobs := rest } : State).setEntry page
      { s.entry page with frame := target, relocating := false }).setFrame target
      { s.frame target with state := .mapped, owner := some (.page page) }).logged
      (relocatedRecord s.nextSeq source page)).setFrame source
      { s.frame source with state := .retired, owner := none, pins := 0, retireOnRelease := true }).logged
      (retiredRecord (s.nextSeq + 1) source page)

theorem switchRelocation_eq {s : State} {page : LP} {source target : PF} {job : Job} {rest : List Job}
    (hj : s.jobs = job :: rest) (hne : source ≠ target) (hstate : (s.frame source).state = .mapped)
    (howner : (s.frame source).owner = some (.page page)) (hpins : (s.frame source).pins = 1)
    (htarget : (s.frame target).state = .moving) (hn : s.NoFaultNotices) :
    switchRelocation page source target s = s.switched page source target rest := by
  have hrest : s.jobs.tail = rest := by simp [hj]
  obtain ⟨u, hu⟩ : ∃ u, u = ((({ s with jobs := rest } : State).setEntry page
      { s.entry page with frame := target, relocating := false }).setFrame target
      { s.frame target with state := .mapped, owner := some (.page page) }) := ⟨_, rfl⟩
  have hmap : mapFrame target page (({ s with jobs := rest } : State).setEntry page
      { s.entry page with frame := target, relocating := false }) = u := by
    rw [hu]
    exact mapFrame_of_shadow (s := ({ s with jobs := rest } : State).setEntry page
      { s.entry page with frame := target, relocating := false }) (.inr htarget) page
  have hnu : u.NoFaultNotices := by rw [hu]; exact hn
  have hframe : (u.logged (relocatedRecord s.nextSeq source page)).frame source = s.frame source := by
    rw [hu]
    exact State.setFrame_frame_of_ne _ _ hne
  have hunpin := unpinFrame_of_not_held (s := u.logged (relocatedRecord s.nextSeq source page)) (pf := source)
    (by rw [hframe, hstate]; nofun)
  have hrelease := releaseFrame_retires_mapped (pf := source) (page := page)
    (s := (u.logged (relocatedRecord s.nextSeq source page)).setFrame source
      { s.frame source with pins := 0, retireOnRelease := true })
    (by simpa using hstate) (by simpa using howner) (by simp) (by simp) hnu
  have hseq : u.nextSeq = s.nextSeq := by rw [hu]; rfl
  simp only [switchRelocation, hrest]
  rw [show State.entry { s with jobs := rest } page = s.entry page from rfl, hmap, appendRecord_of_no_notices hnu, hseq,
    show ({ seq := s.nextSeq, kind := .relocated, frame := source, word := none, syndrome := none,
            context := some .relocate, page := some page, handle := none } : FaultRecord) =
      relocatedRecord s.nextSeq source page from rfl, hunpin, flagFrame, hframe, hpins]
  simp only [State.setFrame_frame_self, State.setFrame_setFrame, Nat.sub_self] at hrelease ⊢
  rw [hrelease]
  simp only [State.switched, ← hu]
  rw [show (State.setFrame (u.logged (relocatedRecord s.nextSeq source page)) source
    { s.frame source with pins := 0, retireOnRelease := true }).nextSeq = s.nextSeq + 1 from congrArg (· + 1) hseq]
  rfl

theorem switched_frame (s : State) (page : LP) (source target : PF) (rest : List Job) (pf : PF) :
    (s.switched page source target rest).frame pf =
      if pf = source then { s.frame source with state := .retired, owner := none, pins := 0, retireOnRelease := true }
      else if pf = target then { s.frame target with state := .mapped, owner := some (.page page) }
      else s.frame pf := by
  refine (State.setFrame_frame _ source pf _).trans (if_congr Iff.rfl rfl ?_)
  exact State.setFrame_frame _ target pf _

theorem switched_log (s : State) (page : LP) (source target : PF) (rest : List Job) :
    ∃ kept, (s.switched page source target rest).log =
      kept ++ [relocatedRecord s.nextSeq source page, retiredRecord (s.nextSeq + 1) source page] := by
  obtain ⟨kept, hkept⟩ := trimmedLog_logged ((({ s with jobs := rest } : State).setEntry page
    { s.entry page with frame := target, relocating := false }).setFrame target
    { s.frame target with state := .mapped, owner := some (.page page) }) (relocatedRecord s.nextSeq source page)
  exact ⟨kept, (congrArg (· ++ [_]) hkept).trans (List.append_assoc ..)⟩

/-- Settles O48: the switch is the updates of `switched`, and nothing follows its event. -/
theorem relocationSwitchMapsTarget : Obligations.RelocationSwitchMapsTarget := by
  intro source page target rest s hj hlist hq hne hstate howner hpins htarget hn
  have hexec : exec .relocationSwitch s = .next (endEvent (switchRelocation page source target s)) := by
    simp only [exec, execRelocationSwitch, hj]
  have hquiet : endEvent (s.switched page source target rest) = s.switched page source target rest :=
    endEvent_of_unlisted hlist hq
  have hseq : (s.switched page source target rest).nextSeq = s.nextSeq + 2 := BitVec.add_assoc s.nextSeq 1 1
  rw [switchRelocation_eq hj hne hstate howner hpins htarget hn, hquiet] at hexec
  refine ⟨_, hexec, State.setEntry_entry_self .., ?_, ?_, fun pf h1 h2 => ?_,
    fun other ho => State.setEntry_entry_of_ne _ _ ho, switched_log s page source target rest, ?_⟩
  · rw [switched_frame, if_neg hne.symm, if_pos rfl]
  · rw [switched_frame, if_pos rfl]
  · rw [switched_frame, if_neg h1, if_neg h2]
  · rw [← hseq]
    rfl

end Sys2Proof.Machine
end

-- ==== The end of a READ and of a placement ====
section
/-! PROOFS. A request in service answered, written out; and what the pins of a finished READ leave (R13, R26). -/

namespace Sys2Proof.Machine

/-- The state after the request in service on a port was answered. -/
def State.replied (s : State) (p : PortId) (r : Request) (a : Answer) : State :=
  s.setPort p
    { s.port p with
      responses := (s.port p).responses ++ [⟨r.tag, a⟩]
      inService := none
      attn := s.settings.respMask[p] || (s.settings.noteMask[p] && !(s.port p).notices.isEmpty) }

section
variable {s : State} {p : PortId} {r : Request}

theorem respond_eq_replied {session : Option Slot} {stage : Stage} (h : (s.port p).inService = some ⟨r, session, stage⟩)
    (a : Answer) : respond p a s = s.replied p r a := by
  have hne : ∀ (l : List Response) (x : Response), (l ++ [x]).isEmpty = false := fun l x => by cases l <;> rfl
  simp [respond, h, State.replied, PortRec.evalAttn, attnWanted, hne]

theorem replied_queueLaw (hq : s.QueueLaw) (hr : (s.port p).requests = []) (a : Answer) : (s.replied p r a).QueueLaw := by
  intro q
  by_cases hqp : q = p
  · subst hqp
    simp [State.replied, PortRec.waiting, hr]
  · rw [State.replied, State.setPort_port_of_ne s _ hqp]
    exact hq q

/-- A request answered at the end of its operation is the end of its event, where nothing waits. -/
theorem endEvent_replied (hq : s.Quiet) (hr : (s.port p).requests = []) (a : Answer) :
    endEvent (s.replied p r a) = s.replied p r a :=
  endEvent_of_quiet ⟨hq.1, replied_queueLaw hq.2 hr a⟩

theorem settle_replied (hq : s.QueueLaw) (hr : (s.port p).requests = []) (a : Answer) :
    settle (s.replied p r a) = s.replied p r a :=
  settle_of_queueLaw (replied_queueLaw hq hr a)

/-- The end of a READ's data copy, where nothing follows it: its pins go, and it is answered. -/
theorem exec_readCompletion {session : Option Slot} {pins : List PF} {data : List Byte}
    (h : (s.port p).inService = some ⟨r, session, .reading pins [] data⟩) (hr : (s.port p).requests = [])
    (hq : (unpinAll pins s).Quiet) :
    exec (.readCompletion p) s = .next ((unpinAll pins s).replied p r (.readOk data)) := by
  obtain ⟨ready, credits, requests, inService, responses, ferr, cause, watches, wire, sdo⟩ :=
    (unpinAll_background s pins).ports p
  have hexec : exec (.readCompletion p) s = .next (endEvent (respond p (.readOk data) (unpinAll pins s))) := by
    simp only [exec, execReadCompletion, h]
  rw [hexec, respond_eq_replied (inService.trans h), endEvent_replied hq (requests.trans hr)]

end

/-- Whether the pin let go is a HELD frame's last. -/
def FrameRec.leavesHeld (f : FrameRec) : Bool := decide (f.state = .held ∧ f.pins ≤ 1)

/-- A frame's record after a pin was let go and it did not retire. -/
def FrameRec.letGo (f : FrameRec) : FrameRec :=
  if f.leavesHeld = true then { f with state := .free, owner := none, pins := 0 } else { f with pins := f.pins - 1 }

/-- A pin let go of a frame that does not retire. -/
theorem unpinFrame_of_unflagged {s : State} {pf : PF}
    (hf : (s.frame pf).leavesHeld = true → (s.frame pf).retireOnRelease = false) :
    unpinFrame pf s = { s.setFrame pf (s.frame pf).letGo with
      pool := s.pool ++ [pf].filter fun q => (s.frame q).leavesHeld } := by
  cases hl : (s.frame pf).leavesHeld with
  | true =>
    obtain ⟨hheld, hpins⟩ : (s.frame pf).state = .held ∧ (s.frame pf).pins ≤ 1 := by
      simpa [FrameRec.leavesHeld] using hl
    rw [unpinFrame_frees hheld hpins (hf hl)]
    simp [FrameRec.letGo, hl]
  | false =>
    have hstays : (s.frame pf).state = .held → 2 ≤ (s.frame pf).pins := fun hheld => by
      by_contra hlt
      exact absurd hl (by simp [FrameRec.leavesHeld, hheld]; omega)
    rw [unpinFrame_of_stays hstays]
    simp [FrameRec.letGo, hl, State.setFrame]

/-- The two pins of a READ of two pages let go, where neither frame retires. -/
theorem unpinAll_pair {s : State} {first second : PF} (hne : first ≠ second)
    (hf : ∀ pf ∈ [first, second], (s.frame pf).leavesHeld = true → (s.frame pf).retireOnRelease = false) :
    unpinAll [first, second] s = { (s.setFrame first (s.frame first).letGo).setFrame second (s.frame second).letGo with
      pool := s.pool ++ [first, second].filter fun q => (s.frame q).leavesHeld } := by
  obtain ⟨u, hu⟩ : ∃ u, u = unpinFrame first s := ⟨_, rfl⟩
  have hfirst := unpinFrame_of_unflagged (hf first (by simp))
  rw [← hu] at hfirst
  have hsecond : u.frame second = s.frame second := by
    rw [hfirst]
    exact State.setFrame_frame_of_ne s _ hne.symm
  have := unpinFrame_of_unflagged (s := u) (pf := second) (by rw [hsecond]; exact hf second (by simp))
  rw [unpinAll, List.foldl_cons, List.foldl_cons, List.foldl_nil, ← hu, this, hsecond]
  have hfilter : ([second].filter fun q => (u.frame q).leavesHeld) = [second].filter fun q => (s.frame q).leavesHeld :=
    List.filter_congr fun q hq => by rw [List.mem_singleton.mp hq, hsecond]
  rw [hfilter, show [first, second] = [first] ++ [second] from rfl, List.filter_append, ← List.append_assoc, hfirst]
  rfl

theorem trimmedLog_eq (s : State) :
    s.trimmedLog = if s.log.length < 16 then s.log else s.log.drop (s.log.length - 15) := by
  have hlen : s.log.length + 1 - Config.logCapacity = s.log.length - 15 := by
    simp only [Config.logCapacity]
    omega
  rw [State.trimmedLog, hlen]
  rfl

/-- Settles O27: the pins of a finished READ are let go one after another, and the answer ends the event. -/
theorem readAndPlacementEnd : Obligations.ReadAndPlacementEnd := by
  refine ⟨fun p r session pf data s hserv hreq hquiet hstate => ?_,
    fun p r session first second data s hserv hreq hq hlist hne hflag => ?_,
    fun p r session pf data s hserv hreq hq hlist hheld => ?_,
    fun p r session pf write zeroed s hserv hreq hq => ?_⟩
  · have hunpin := unpinFrame_of_not_held (s := s) (pf := pf) (by rcases hstate with h | h <;> simp [h])
    rw [exec_readCompletion hserv hreq (show State.Quiet (unpinFrame pf s) by rw [hunpin]; exact hquiet)]
    refine congrArg (fun t : State => Host.Outcome.next (t.replied p r (.readOk data))) hunpin
  · have hpair := unpinAll_pair hne hflag
    rw [exec_readCompletion hserv hreq (by rw [hpair]; exact ⟨relocationDue_nil hlist, hq⟩), hpair]
    refine ⟨_, rfl, fun pf hpf => ?_, fun pf h1 h2 => ?_, rfl, rfl⟩
    · show ((s.setFrame first (s.frame first).letGo).setFrame second (s.frame second).letGo).frame pf = (s.frame pf).letGo
      rcases List.mem_cons.mp hpf with rfl | hpf
      · rw [State.setFrame_frame_of_ne _ _ hne, State.setFrame_frame_self]
      · rw [List.mem_singleton.mp hpf, State.setFrame_frame_self]
    · show ((s.setFrame first (s.frame first).letGo).setFrame second (s.frame second).letGo).frame pf = s.frame pf
      rw [State.setFrame_frame_of_ne _ _ h2, State.setFrame_frame_of_ne _ _ h1]
  · have hquiet : ∀ u : State, u.relocations = [] → u.ports = s.ports → u.Quiet := fun u hr hp =>
      ⟨relocationDue_nil hr, fun q => by simpa only [State.port, hp] using hq q⟩
    have hexec : ∀ u, unpinFrame pf s = u → u.Quiet →
        exec (.readCompletion p) s = .next (u.replied p r (.readOk data)) := fun u hu hqu => by
      rw [exec_readCompletion hserv hreq (show State.Quiet (unpinFrame pf s) by rw [hu]; exact hqu)]
      exact congrArg (fun t : State => Host.Outcome.next (t.replied p r (.readOk data))) hu
    refine ⟨fun hpins => ?_, fun hpins hflag => ?_, fun hpins hflag hn => ?_⟩
    · rw [hexec _ (unpinFrame_of_stays fun _ => hpins) (hquiet _ hlist rfl)]
      rfl
    · rw [hexec _ (unpinFrame_frees hheld hpins.le hflag) (hquiet _ hlist rfl)]
      rfl
    · rw [hexec _ (unpinFrame_retires hheld hpins.le hflag hn) (hquiet _ hlist rfl), ← trimmedLog_eq]
      rfl
  · have hexec : exec (.writePlacementEnd p) s = .next (settle (respond p (.writeOk false zeroed) s)) := by
      simp only [exec, execWritePlacementEnd, hserv]
    rw [hexec, respond_eq_replied hserv, settle_replied hq hreq]
    rfl

end Sys2Proof.Machine
end

-- ==== The capture of a READ ====
section
/-! PROOFS. The accesses of a READ go through its span byte by byte (R13); its sources, where each page has one (R10); and the
capture, which pins them in one event (R9 to R12). -/

namespace Sys2Proof.Machine

/-! ### The bytes of a span -/

/-- What a filter drops may as well give nothing. -/
theorem flatMap_filter_eq {α β : Type} (p : α → Bool) (f g : α → List β) (l : List α) (hp : ∀ x, p x = true → f x = g x)
    (hn : ∀ x, p x = false → g x = []) : (l.filter p).flatMap f = l.flatMap g := by
  induction l with
  | nil => rfl
  | cons x l ih =>
    cases hx : p x with
    | true => rw [List.filter_cons_of_pos hx, List.flatMap_cons, List.flatMap_cons, ih, hp x hx]
    | false => rw [List.filter_cons_of_neg (by simp [hx]), List.flatMap_cons, ih, hn x hx, List.nil_append]

/-- The addresses from lo to hi that lie in word k of a page at a base. -/
def wordAddresses (base lo hi k : Nat) : List Nat :=
  List.range' (base + max lo (4 * k)) (min hi (4 * k + 3) + 1 - max lo (4 * k))

/-- Word by word, the addresses from lo to hi follow one another. -/
theorem wordAddresses_flatMap (base lo hi n : Nat) :
    (List.range n).flatMap (wordAddresses base lo hi) = List.range' (base + lo) (min (hi + 1) (4 * n) - lo) := by
  induction n with
  | zero => simp
  | succ n ih =>
    rw [List.range_succ, List.flatMap_append, ih, List.flatMap_singleton, wordAddresses]
    by_cases hlo : 4 * n ≤ lo
    · rw [show min (hi + 1) (4 * n) - lo = 0 by omega, List.range'_zero, List.nil_append, Nat.max_eq_left hlo,
        show min hi (4 * n + 3) + 1 - lo = min (hi + 1) (4 * (n + 1)) - lo by omega]
    · by_cases hhi : hi < 4 * n
      · rw [show min hi (4 * n + 3) + 1 - max lo (4 * n) = 0 by omega, List.range'_zero, List.append_nil,
          show min (hi + 1) (4 * n) - lo = min (hi + 1) (4 * (n + 1)) - lo by omega]
      · rw [Nat.max_eq_right (by omega : lo ≤ 4 * n),
          show base + 4 * n = base + lo + (min (hi + 1) (4 * n) - lo) by omega, List.range'_append_1,
          show min (hi + 1) (4 * n) - lo + (min hi (4 * n + 3) + 1 - 4 * n) = min (hi + 1) (4 * (n + 1)) - lo by omega]

/-- The accesses of one page's part of a READ take its bytes in address order. -/
theorem pieceAccesses_addresses (page : LP) (pf : PF) {lo hi : Nat} (hhi : hi < 256) :
    (pieceAccesses page pf lo hi).flatMap ReadAccess.addresses =
      List.range' (page.val * 256 + lo) (hi + 1 - lo) := by
  have hword : ∀ k : WordIx, (decide (lo / 4 ≤ k.val) && decide (k.val ≤ hi / 4)) = true →
      ReadAccess.addresses { page := page, frame := pf, word := k, first := max lo (4 * k.val) - 4 * k.val,
                             last := min hi (4 * k.val + 3) - 4 * k.val } = wordAddresses (page.val * 256) lo hi k.val := by
    intro k hk
    have hk : lo / 4 ≤ k.val ∧ k.val ≤ hi / 4 := by simpa using hk
    have hfirst : page.val * 256 + k.val * 4 + (max lo (4 * k.val) - 4 * k.val) = page.val * 256 + max lo (4 * k.val) := by
      omega
    have hcount : min hi (4 * k.val + 3) - 4 * k.val + 1 - (max lo (4 * k.val) - 4 * k.val) =
        min hi (4 * k.val + 3) + 1 - max lo (4 * k.val) := by omega
    simp only [ReadAccess.addresses, wordAddresses, List.map_add_range', hfirst, hcount]
  have hempty : ∀ k : WordIx, (decide (lo / 4 ≤ k.val) && decide (k.val ≤ hi / 4)) = false →
      wordAddresses (page.val * 256) lo hi k.val = [] := by
    intro k hk
    have hk : lo / 4 ≤ k.val → hi / 4 < k.val := by simpa using hk
    rw [wordAddresses, show min hi (4 * k.val + 3) + 1 - max lo (4 * k.val) = 0 by omega, List.range'_zero]
  rw [pieceAccesses, List.flatMap_map, flatMap_filter_eq _ _ (fun k => wordAddresses (page.val * 256) lo hi k.val) _ hword hempty,
    ← List.flatMap_map Fin.val (wordAddresses (page.val * 256) lo hi), List.map_coe_finRange_eq_range,
    wordAddresses_flatMap, show min (hi + 1) (4 * 64) - lo = hi + 1 - lo by omega]

theorem pieceAccesses_page {page : LP} {pf : PF} {lo hi : Nat} {a : ReadAccess} (h : a ∈ pieceAccesses page pf lo hi) :
    a.page = page ∧ a.frame = pf := by
  obtain ⟨k, -, rfl⟩ := List.mem_map.mp h
  exact ⟨rfl, rfl⟩

/-! ### Sources -/

/-- The filled shadow of a covered page that a READ takes in place of the map's frame (R10). -/
def State.ownShadow (s : State) (session : Option Slot) (page : LP) : Option PF :=
  session.bind fun slot =>
    if ∃ j ∈ s.jobs, j.session? = some slot ∧ j.page = page then none
    else ((s.session slot).shadows.find? fun e => e.page = page).map ShadowEntry.frame

theorem filledShadow_eq (s : State) (slot : Slot) (page : LP) : s.filledShadow slot page =
    if ∃ j ∈ s.jobs, j.session? = some slot ∧ j.page = page then none
    else ((s.session slot).shadows.find? fun e => e.page = page).map ShadowEntry.frame := by
  have hjobs : (s.jobs.any fun j => decide (j.session? = some slot) && decide (j.page = page)) = true ↔
      ∃ j ∈ s.jobs, j.session? = some slot ∧ j.page = page := by simp
  simp only [State.filledShadow, hjobs]

theorem sourceOf_eq (s : State) (session : Option Slot) (page : LP) : s.sourceOf session page =
    ((s.ownShadow session page).getD (s.entry page).frame, (s.ownShadow session page).isNone) := by
  have hown : (session.bind fun slot => s.filledShadow slot page) = s.ownShadow session page := by
    simp only [State.ownShadow, filledShadow_eq]
  simp only [State.sourceOf, hown]
  cases s.ownShadow session page <;> rfl

/-- The source of a covered page. -/
def State.source (s : State) (session : Option Slot) (page : LP) : PF :=
  (s.ownShadow session page).getD (s.entry page).frame

/-- A covered page whose source is a POISONED page's frame, which refuses the READ (R12). -/
def State.Refused (s : State) (session : Option Slot) (page : LP) : Prop :=
  s.ownShadow session page = none ∧ (s.entry page).condition = .poisoned

theorem refused_iff (s : State) (session : Option Slot) (page : LP) :
    ((s.sourceOf session page).2 && decide ((s.entry page).condition = .poisoned)) = true ↔ s.Refused session page := by
  simp [sourceOf_eq, State.Refused]

/-! ### The capture -/

/-- The handle of a session of the port passes the checks. -/
theorem checkHandle_of_owns {s : State} {p : PortId} {handle : Handle} {slot : Slot} (h : s.Owns p handle slot)
    {mustBeOpen : Bool} (ho : mustBeOpen = true → (s.session slot).state = .opened) :
    checkHandle p handle mustBeOpen s = .ok slot := by
  obtain ⟨hnamed, hport⟩ := h
  simp only [checkHandle, hnamed, hport, ne_eq, not_true_eq_false, if_false]
  rw [if_neg]
  cases mustBeOpen with
  | true => simp [ho rfl]
  | false => simp

section
variable {s : State} {p : PortId} {tag : Byte} {handle : Handle} {address length : BitVec 16} {session : Option Slot}

/-- A READ names no session, or a session of its port. -/
def State.ReadNames (s : State) (p : PortId) (handle : Handle) (session : Option Slot) : Prop :=
  (handle = 0x80#8 ∧ session = none) ∨ (handle ≠ 0x80#8 ∧ ∃ slot, session = some slot ∧ s.Owns p handle slot)

/-- A READ whose handle checks pass is refused BOUNDS or captured. -/
theorem exec_read (hp : s.PortFree p) (hn : s.ReadNames p handle session) :
    exec (.read p tag handle address length) s = .next (settleUpTo s.queued
      (if length = 0 ∨ 256 < length.toNat ∨ 65536 < address.toNat + length.toNat then
        respond p .bounds (s.serving p ⟨tag, .read handle address length⟩ none .atOnce)
      else captureRead p session address.toNat length.toNat
        (s.serving p ⟨tag, .read handle address length⟩ none .atOnce))) := by
  refine congrArg Host.Outcome.next ((sendRequest_of_free hp rfl).trans (congrArg (settleUpTo s.queued) ?_))
  rcases hn with ⟨rfl, rfl⟩ | ⟨hne, slot, rfl, howns⟩
  · simp only [serve, serveRead, if_true]
  · have hcheck : checkHandle p handle false (s.serving p ⟨tag, .read handle address length⟩ none .atOnce) = .ok slot :=
      checkHandle_of_owns (s := s.serving p ⟨tag, .read handle address length⟩ none .atOnce) howns nofun
    simp only [serve, serveRead, if_neg hne, hcheck]
    rfl

/-- The state in which the sources of a READ were pinned and its data copy began. -/
def State.captured (s : State) (p : PortId) (r : Request) (session : Option Slot) (pins : List PF)
    (todo : List ReadAccess) : State :=
  (pins.foldl (fun t pf => pinFrame pf t) s).serving p r session (.reading pins todo [])

theorem pinAll_serving (s : State) (p : PortId) (r : Request) (pins : List PF) :
    pins.foldl (fun t pf => pinFrame pf t) (s.serving p r none .atOnce) =
      (pins.foldl (fun t pf => pinFrame pf t) s).serving p r none .atOnce := by
  induction pins generalizing s with
  | nil => rfl
  | cons pf pins ih => exact ih (pinFrame pf s)

/-- The ports are as they were after the sources were pinned. -/
theorem pinAll_portFree (hp : s.PortFree p) (pins : List PF) : (pins.foldl (fun t pf => pinFrame pf t) s).PortFree p := by
  induction pins generalizing s with
  | nil => exact hp
  | cons pf pins ih =>
    obtain ⟨ready, wire, credit, queue, service, others⟩ := hp
    exact ih ⟨ready, wire, credit, queue, service, others⟩

/-- A READ within bounds meets a refusing page first, or pins the source of each page it covers. -/
theorem exec_read_captures (hp : s.PortFree p) (hn : s.ReadNames p handle session)
    (hb : ¬ (length = 0 ∨ 256 < length.toNat ∨ 65536 < address.toNat + length.toNat)) :
    exec (.read p tag handle address length) s = .next
      (match (spanPieces address.toNat length.toNat).find? fun x =>
          (s.sourceOf session x.1).2 && decide ((s.entry x.1).condition = .poisoned) with
        | some x => s.answered p ⟨tag, .read handle address length⟩ (.poisoned x.1)
        | none => s.captured p ⟨tag, .read handle address length⟩ session
            ((spanPieces address.toNat length.toNat).map fun x => s.source session x.1)
            ((spanPieces address.toNat length.toNat).flatMap fun x =>
              pieceAccesses x.1 (s.source session x.1) x.2.1 x.2.2)) := by
  have hsource : ∀ x, s.source session x = (s.sourceOf session x).1 := fun x => by rw [sourceOf_eq, State.source]
  rw [exec_read hp hn, if_neg hb]
  refine congrArg Host.Outcome.next ?_
  simp only [hsource]
  generalize hr : (⟨tag, .read handle address length⟩ : Request) = r
  have hsame : ∀ x, (s.serving p r none .atOnce).sourceOf session x = s.sourceOf session x := fun _ => rfl
  have hentry : ∀ x, (s.serving p r none .atOnce).entry x = s.entry x := fun _ => rfl
  simp only [captureRead, hsame, hentry]
  cases hfind : (spanPieces address.toNat length.toNat).find? fun x =>
      (s.sourceOf session x.1).2 && decide ((s.entry x.1).condition = .poisoned) with
  | some x =>
    simp only [respond_serving]
    exact settleUpTo_of_queueLaw (answered_queueLaw hp _ _) _
  | none =>
    simp only [pinAll_serving]
    generalize List.map _ (spanPieces address.toNat length.toNat) = pins
    generalize List.flatMap _ (spanPieces address.toNat length.toNat) = todo
    have hserv : ∀ u : State, setService p session (.reading pins todo []) (u.serving p r none .atOnce) =
        u.serving p r session (.reading pins todo []) := fun u => by simp [setService, State.serving]
    rw [hserv]
    exact settleUpTo_of_queueLaw (serving_queueLaw (pinAll_portFree hp pins) _ _ _) _

end

end Sys2Proof.Machine
end

-- ==== READ: its refusals and its capture ====
section
/-! PROOFS. The pages that a READ covers, and the settlement of what a READ does (R9 to R12). -/

namespace Sys2Proof.Machine

/-- The number of the page that an address lies in. -/
theorem pageOf_val (address : BitVec 16) : (Fin.ofNat 256 (address.toNat / 256) : LP).val = address.toNat / 256 := by
  have := address.isLt
  exact Nat.mod_eq_of_lt (by omega)

theorem pageOf_succ (n : Nat) : (Fin.ofNat 256 n + 1 : LP) = Fin.ofNat 256 (n + 1) := by
  apply Fin.ext
  show (n % 256 + 1) % 256 = (n + 1) % 256
  omega

theorem pinFrame_frame_eq (s : State) (q pf : PF) : (pinFrame q s).frame pf =
    { s.frame pf with pins := (s.frame pf).pins + if q = pf then 1 else 0 } := by
  rw [pinFrame, State.setFrame_frame]
  by_cases h : pf = q
  · subst h; simp
  · simp [h, Ne.symm h]

theorem pinTwo_frame (s : State) (q q' pf : PF) : ([q, q'].foldl (fun t x => pinFrame x t) s).frame pf =
    { s.frame pf with pins := (s.frame pf).pins + ([q, q'].filter (· = pf)).length } := by
  rw [List.foldl_cons, List.foldl_cons, List.foldl_nil, pinFrame_frame_eq, pinFrame_frame_eq]
  by_cases h : q = pf <;> by_cases h' : q' = pf <;> simp [h, h']

section
variable {s : State} {p : PortId} {tag : Byte} {handle : Handle} {address length : BitVec 16} {session : Option Slot}

/-- A READ that fits in its first page. -/
theorem exec_read_one (hp : s.PortFree p) (hn : s.ReadNames p handle session) (hlen : length ≠ 0)
    (hfit : address.toNat % 256 + length.toNat ≤ 256) :
    (s.Refused session (Fin.ofNat 256 (address.toNat / 256)) → exec (.read p tag handle address length) s =
      .next (s.answered p ⟨tag, .read handle address length⟩ (.poisoned (Fin.ofNat 256 (address.toNat / 256))))) ∧
    (¬ s.Refused session (Fin.ofNat 256 (address.toNat / 256)) → exec (.read p tag handle address length) s =
      .next (s.captured p ⟨tag, .read handle address length⟩ session
        [s.source session (Fin.ofNat 256 (address.toNat / 256))]
        (pieceAccesses (Fin.ofNat 256 (address.toNat / 256)) (s.source session (Fin.ofNat 256 (address.toNat / 256)))
          (address.toNat % 256) (address.toNat % 256 + length.toNat - 1)))) := by
  have haddr := address.isLt
  have hlt : length.toNat ≤ 256 := by omega
  have hexec := exec_read_captures (tag := tag) (address := address) (length := length) hp hn (by
    rintro (h | h | h)
    · exact hlen h
    · omega
    · omega)
  rw [spanPieces, if_pos hfit] at hexec
  simp only [List.find?_cons, List.find?_nil, List.map_cons, List.map_nil, List.flatMap_singleton] at hexec
  rw [hexec]
  refine ⟨fun hr => ?_, fun hr => ?_⟩
  · simp only [(refused_iff ..).mpr hr]
  · simp only [Bool.eq_false_iff.mpr (mt (refused_iff ..).mp hr)]

/-- A READ that goes on into a second page. -/
theorem exec_read_two (hp : s.PortFree p) (hn : s.ReadNames p handle session) (hlen : length.toNat ≤ 256)
    (hover : 256 < address.toNat % 256 + length.toNat) (hend : address.toNat + length.toNat ≤ 65536) {first second : LP}
    (hfirst : first = Fin.ofNat 256 (address.toNat / 256)) (hsecond : second = Fin.ofNat 256 (address.toNat / 256 + 1)) :
    (s.Refused session first → exec (.read p tag handle address length) s =
      .next (s.answered p ⟨tag, .read handle address length⟩ (.poisoned first))) ∧
    (¬ s.Refused session first → s.Refused session second → exec (.read p tag handle address length) s =
      .next (s.answered p ⟨tag, .read handle address length⟩ (.poisoned second))) ∧
    (¬ s.Refused session first → ¬ s.Refused session second → exec (.read p tag handle address length) s =
      .next (s.captured p ⟨tag, .read handle address length⟩ session [s.source session first, s.source session second]
        (pieceAccesses first (s.source session first) (address.toNat % 256) 255 ++
          pieceAccesses second (s.source session second) 0 (address.toNat % 256 + length.toNat - 257)))) := by
  have hexec := exec_read_captures (tag := tag) (address := address) (length := length) hp hn (by
    rintro (h | h | h)
    · simp [h] at hover; omega
    · omega
    · omega)
  rw [spanPieces, if_neg (by omega), ← hfirst, ← hsecond] at hexec
  simp only [List.find?_cons, List.find?_nil, List.map_cons, List.map_nil, List.flatMap_cons, List.flatMap_nil,
    List.append_nil] at hexec
  rw [hexec]
  refine ⟨fun hr => ?_, fun hr hr' => ?_, fun hr hr' => ?_⟩
  · simp only [(refused_iff ..).mpr hr]
  · simp only [Bool.eq_false_iff.mpr (mt (refused_iff ..).mp hr), (refused_iff ..).mpr hr']
  · simp only [Bool.eq_false_iff.mpr (mt (refused_iff ..).mp hr), Bool.eq_false_iff.mpr (mt (refused_iff ..).mp hr')]

end

/-- The two parts of a span that crosses a page border take its addresses in order. -/
theorem twoPieces_addresses (address length : BitVec 16) (hover : 256 < address.toNat % 256 + length.toNat)
    (hlen : length.toNat ≤ 256) (hend : address.toNat + length.toNat ≤ 65536) (pf pf' : PF) :
    ((pieceAccesses (Fin.ofNat 256 (address.toNat / 256)) pf (address.toNat % 256) 255 ++
        pieceAccesses (Fin.ofNat 256 (address.toNat / 256 + 1)) pf' 0 (address.toNat % 256 + length.toNat - 257)).flatMap
      ReadAccess.addresses) = List.range' address.toNat length.toNat := by
  have hsecond : (Fin.ofNat 256 (address.toNat / 256 + 1) : LP).val = address.toNat / 256 + 1 :=
    Nat.mod_eq_of_lt (by omega)
  rw [List.flatMap_append, pieceAccesses_addresses _ _ (by omega), pieceAccesses_addresses _ _ (by omega), pageOf_val,
    hsecond, show address.toNat / 256 * 256 + address.toNat % 256 = address.toNat by omega,
    show (address.toNat / 256 + 1) * 256 + 0 = address.toNat + (255 + 1 - address.toNat % 256) by omega,
    List.range'_append_1, show 255 + 1 - address.toNat % 256 + (address.toNat % 256 + length.toNat - 257 + 1 - 0) =
      length.toNat by omega]

/-- Settles O26: the span's pages, their sources and the capture, case by case. -/
theorem readCapturesItsPages : Obligations.ReadCapturesItsPages := by
  intro p tag handle address length session s hp hn
  refine ⟨fun hb => ?_, fun hlen hfit => ?_, fun hlen hover hend => ?_⟩
  · rw [exec_read hp hn, if_pos hb, respond_serving, settleUpTo_of_queueLaw (answered_queueLaw hp _ _)]
  · obtain ⟨hrefused, hcaptured⟩ := exec_read_one (tag := tag) hp hn hlen hfit
    refine ⟨hrefused, fun hr => ⟨_, hcaptured hr, ?_, fun a ha => pieceAccesses_page ha⟩⟩
    have hpos : 0 < length.toNat := by
      rw [Nat.pos_iff_ne_zero]
      exact fun h => hlen (BitVec.eq_of_toNat_eq h)
    rw [pieceAccesses_addresses _ _ (by omega), pageOf_val,
      show address.toNat / 256 * 256 + address.toNat % 256 = address.toNat by omega,
      show address.toNat % 256 + length.toNat - 1 + 1 - address.toNat % 256 = length.toNat by omega]
  · obtain ⟨hfirst, hsecond, hcaptured⟩ := exec_read_two (tag := tag) hp hn hlen hover hend rfl (pageOf_succ _)
    refine ⟨hfirst, hsecond, fun hr hr' => ⟨_, _, hcaptured hr hr', rfl, fun pf => ?_, ?_, fun a ha => ?_⟩⟩
    · exact pinTwo_frame s _ _ pf
    · have := twoPieces_addresses address length hover hlen hend
      rw [pageOf_succ]
      exact this _ _
    · exact (List.mem_append.mp ha).imp pieceAccesses_page pieceAccesses_page

end Sys2Proof.Machine
end

-- ==== A clean word ====
section
/-! PROOFS. One grant of the store to one client, and what a clean word moves on (R13, R33, R68, R142). -/

namespace Sys2Proof.Machine

section
variable {s : State}

/-- A grant is one access of the next client, on a word disturbed first. -/
theorem exec_grant {position : Nat} (h : nextClient s = some position) (flips : BitVec 39) :
    exec (.storeArbiterGrant flips) s =
      .next (endEvent (clientAccess position { disturbFor position flips s with lastGranted := position })) := by
  simp only [exec, execStoreArbiterGrant, grant, h]

theorem disturbFor_zero (s : State) (position : Nat) : disturbFor position 0 s = s := by
  simp only [disturbFor]
  split
  · rfl
  · exact disturbWord_zero ..

/-- A grant whose word suffers no disturbance. -/
theorem exec_grant_zero {position : Nat} (h : nextClient s = some position) :
    exec (.storeArbiterGrant 0) s = .next (endEvent (clientAccess position { s with lastGranted := position })) := by
  rw [exec_grant h, disturbFor_zero]

theorem clientAccess_port (p : PortId) (s : State) : clientAccess (p.val + 1) s = portAccess p s :=
  match p with
  | 0 => rfl
  | 1 => rfl
  | 2 => rfl
  | 3 => rfl

theorem clientAccess_job {job : Job} {rest : List Job} (h : s.jobs = job :: rest) : clientAccess 5 s = jobStep job s := by
  simp only [clientAccess, h]

theorem filter_range_eq (a b n : Nat) : ((List.range n).filter fun k => decide (a ≤ k) && decide (k ≤ b)) =
    List.range' a (min (b + 1) n - a) := by
  induction n with
  | zero => simp
  | succ n ih =>
    rw [List.range_succ, List.filter_append, ih]
    by_cases hin : a ≤ n ∧ n ≤ b
    · rw [List.filter_cons_of_pos (by simpa using hin), List.filter_nil,
        show min (b + 1) (n + 1) - a = min (b + 1) n - a + 1 by omega, ← List.range'_append_1, List.range'_one,
        show a + (min (b + 1) n - a) = n by omega]
    · rw [List.filter_cons_of_neg (by simpa using hin), List.filter_nil, List.append_nil,
        show min (b + 1) (n + 1) - a = min (b + 1) n - a by omega]

/-- The bytes of a word that lie in a span. -/
theorem wordBytes_eq (w : Word) (first last : Nat) :
    wordBytes w first last = (List.range' first (min (last + 1) 4 - first)).map (byteOfWord w) := by
  rw [wordBytes, filter_range_eq]

/-- A port that keeps a request in service has nothing to take. -/
theorem inService_queueLaw (hq : s.QueueLaw) {p : PortId} {r : PortRec} (hr : r.inService.isSome = true) :
    (s.setPort p r).QueueLaw := by
  intro q
  by_cases hqp : q = p
  · subst hqp
    rw [State.setPort_port_self, PortRec.waiting, Option.isNone_eq_false_iff.mpr hr, Bool.false_and]
  · rw [State.setPort_port_of_ne s _ hqp]
    exact hq q

/-- Whether a relocation is due does not depend on how far the job at the head has come. -/
theorem relocationDue_setHead {job job' : Job} {rest : List Job} (h : s.jobs = job :: rest) (hk : job'.kind = job.kind) :
    relocationDue { s with jobs := job' :: rest } = relocationDue s := by
  have hany : (job' :: rest).any Job.isRelocate = s.jobs.any Job.isRelocate := by
    simp only [h, List.any_cons, Job.isRelocate, hk]
  simp only [relocationDue, hany]
  rfl

theorem quiet_setHead (hq : s.Quiet) {job job' : Job} {rest : List Job} (h : s.jobs = job :: rest)
    (hk : job'.kind = job.kind) : State.Quiet { s with jobs := job' :: rest } :=
  ⟨(relocationDue_setHead h hk).trans hq.1, hq.2⟩

theorem setProgress_cons {job : Job} {rest : List Job} (h : s.jobs = job :: rest) (progress : Progress) :
    setProgress progress s = { s with jobs := { job with progress := progress } :: rest } := by
  simp only [setProgress, h]

end

/-- A RELOCATE job places no write. -/
theorem covered_of_nothing : PendingWrite.covered { offset := 0, data := [] } = [] := by
  simp [PendingWrite.covered]

/-- A fill that reads its words goes on to the next word. -/
theorem afterFill_of_source {job : Job} {k k' : WordIx} {source : PF} (hk : k'.val = k.val + 1)
    (hs : job.source? = some source) : afterFill job k = .fillRead k' := by
  have hlt : k.val + 1 < 64 := hk ▸ k'.isLt
  have he : (⟨k.val + 1, hlt⟩ : WordIx) = k' := Fin.ext hk.symm
  simp only [afterFill, dif_pos hlt, he]
  cases hkind : job.kind with
  | copy slot source write origin => rfl
  | zero slot write origin => simp [Job.source?, hkind] at hs
  | relocate source => rfl

/-- A fill with zeros goes on to the next word. -/
theorem afterFill_of_no_source {job : Job} {k k' : WordIx} (hk : k'.val = k.val + 1) (hs : job.source? = none) :
    afterFill job k = .fillWrite k' 0 := by
  have hlt : k.val + 1 < 64 := hk ▸ k'.isLt
  have he : (⟨k.val + 1, hlt⟩ : WordIx) = k' := Fin.ext hk.symm
  simp only [afterFill, dif_pos hlt, he]
  cases hkind : job.kind with
  | copy slot source write origin => simp [Job.source?, hkind] at hs
  | zero slot write origin => rfl
  | relocate source => simp [Job.source?, hkind] at hs

theorem afterFill_of_last {job : Job} {k : WordIx} (hk : k.val = 63) : afterFill job k = .place job.write.covered := by
  have hge : ¬ k.val + 1 < 64 := by omega
  simp only [afterFill, dif_neg hge, Job.write]
  cases job.kind with
  | copy slot source write origin => rfl
  | zero slot write origin => rfl
  | relocate source => rw [covered_of_nothing]

/-- Settles O40: each client's access on a clean word, and nothing follows its event. -/
theorem cleanWordMovesOn : Obligations.CleanWordMovesOn := by
  refine ⟨fun p r session pins a todo data word s hquiet hnext hserv hword => ?_,
    fun job rest source k word s hquiet hnext hjobs hsource hprogress hword => ?_,
    fun job rest k word s hquiet hnext hjobs hprogress => ?_⟩
  · have haccess : portAccess p { s with lastGranted := p.val + 1 } =
        ({ s with lastGranted := p.val + 1 } : State).setPort p
          { s.port p with inService := some ⟨r, session, .reading pins todo (data ++ wordBytes word a.first a.last)⟩ } := by
      have hserv' : (State.port { s with lastGranted := p.val + 1 } p).inService =
        some ⟨r, session, .reading pins (a :: todo) data⟩ := hserv
      have hword' : (State.word { s with lastGranted := p.val + 1 } a.frame a.word).decode = .clean word := hword
      simp only [portAccess, hserv', readStep, hword', setService]
      rfl
    rw [exec_grant_zero hnext, clientAccess_port, haccess, wordBytes_eq]
    exact congrArg Host.Outcome.next
      (endEvent_of_quiet ⟨hquiet.1, inService_queueLaw (s := { s with lastGranted := p.val + 1 }) hquiet.2 rfl⟩)
  · have haccess : jobStep job { s with lastGranted := 5 } =
        { s with lastGranted := 5, jobs := { job with progress := .fillWrite k word } :: rest } := by
      have hword' : (State.word { s with lastGranted := 5 } source k).decode = .clean word := hword
      simp only [jobStep, hprogress, hsource, fillStep, hword']
      exact setProgress_cons (s := { s with lastGranted := 5 }) hjobs _
    rw [exec_grant_zero hnext, clientAccess_job (s := { s with lastGranted := 5 }) hjobs, haccess]
    exact congrArg Host.Outcome.next
      (endEvent_of_quiet (quiet_setHead (s := { s with lastGranted := 5 }) hquiet hjobs rfl))
  · have haccess : jobStep job { s with lastGranted := 5 } =
        State.writeWord { s with lastGranted := 5, jobs := { job with progress := afterFill job k } :: rest } job.target
          k word := by
      simp only [jobStep, hprogress]
      exact setProgress_cons (s := State.writeWord { s with lastGranted := 5 } job.target k word) hjobs _
    refine ⟨afterFill job k, ?_, fun k' source hk hsource => afterFill_of_source hk hsource,
      fun k' hk hsource => afterFill_of_no_source hk hsource, fun hk => afterFill_of_last hk⟩
    rw [exec_grant_zero hnext, clientAccess_job (s := { s with lastGranted := 5 }) hjobs, haccess]
    exact congrArg Host.Outcome.next
      (endEvent_of_quiet (quiet_setHead (s := State.writeWord { s with lastGranted := 5 } job.target k word) hquiet hjobs rfl))

end Sys2Proof.Machine
end

-- ==== An uncorrectable word in a MAPPED frame ====
section
/-! PROOFS. The record of an uncorrectable word, the poisoning of its page and the abandonment of the page's relocation,
written out (R6, R130, R144). -/

namespace Sys2Proof.Machine

/-- The record of an uncorrectable word in a page's frame. -/
def uncorrectableEntry (s : State) (pf : PF) (k : WordIx) (context : ReadContext) (page : LP) : FaultRecord :=
  { seq := s.nextSeq, kind := .uncorrectable, frame := pf, word := some k, syndrome := some (s.word pf k).diff,
    context := some context, page := some page, handle := none }

/-- The state in which an uncorrectable word of a page's frame is recorded, the frame flagged. -/
def State.marked (s : State) (pf : PF) (k : WordIx) (context : ReadContext) (page : LP) : State :=
  (s.logged (uncorrectableEntry s pf k context page)).setFrame pf { s.frame pf with retireOnRelease := true }

/-- The state in which a page is POISONED, no page being listed for relocation any more. -/
def State.poisoned (s : State) (page : LP) : State :=
  { s.setEntry page { s.entry page with condition := .poisoned } with relocations := [] }

/-- The state in which the relocation of a page to an unpinned and unflagged target was abandoned. -/
def State.abandoned (s : State) (source target : PF) (page : LP) (jobs : List Job) : State :=
  { ((s.setFrame source { s.frame source with pins := (s.frame source).pins - 1 }).setFrame target
      { s.frame target with state := .free, owner := none }).setEntry page
      { s.entry page with relocating := false } with
    jobs := jobs
    pool := s.pool ++ [target] }

section
variable {s : State} {pf : PF} {page : LP}

theorem uncorrectableRecord_mapped (hs : (s.frame pf).state = .mapped) (ho : (s.frame pf).owner = some (.page page))
    (hn : s.NoFaultNotices) (k : WordIx) (context : ReadContext) :
    uncorrectableRecord pf k (s.word pf k).diff context s = s.marked pf k context page := by
  have hpage : s.recordPage pf = some page := by simp only [State.recordPage, hs, ho]
  have hhandle : s.recordHandle pf = none := by simp only [State.recordHandle, hs]
  rw [uncorrectableRecord, appendRecord_of_no_notices hn, hpage, hhandle, flagFrame]
  rfl

theorem uncorrectableEffect_mapped {f : FrameRec} (hs : f.state = .mapped) (ho : f.owner = some (.page page)) (s : State) :
    uncorrectableEffect pf f s = poisonPage page s := by
  simp only [uncorrectableEffect, hs, ho]

theorem unlistRelocation_of_listed (h : ∀ x ∈ s.relocations, x = page) :
    unlistRelocation page s = { s with relocations := [] } := by
  rw [unlistRelocation, List.filter_eq_nil_iff.mpr fun x hx => by simp [h x hx]]

/-- A page's relocating flag stands when it becomes POISONED. -/
theorem setCondition_relocating (s : State) (page : LP) (condition : Condition) :
    ((s.setEntry page { s.entry page with condition := condition }).entry page).relocating =
      (s.entry page).relocating := by rw [State.setEntry_entry_self]

/-- A page that is not relocating becomes POISONED. -/
theorem poisonPage_of_settled (hrel : (s.entry page).relocating = false) (hlist : ∀ x ∈ s.relocations, x = page) :
    poisonPage page s = s.poisoned page := by
  have hflag := setCondition_relocating s page .poisoned
  simp only [poisonPage]
  rw [if_neg (by rw [hflag, hrel]; nofun)]
  exact unlistRelocation_of_listed (s := s.setEntry page { s.entry page with condition := .poisoned }) hlist

/-- The abandonment of a relocation, its job somewhere in the queue. -/
theorem abandonRelocation_explicit {source target : PF} {progress : Progress} {before after : List Job}
    (hj : s.jobs = before ++ ⟨.relocate source, page, target, progress⟩ :: after)
    (hb : ∀ j ∈ before, j.isRelocate = false) (hsource : (s.frame source).state = .mapped)
    (htarget : (s.frame target).state = .moving) (hpins : (s.frame target).pins = 0)
    (hflag : (s.frame target).retireOnRelease = false) :
    abandonRelocation page s = s.abandoned source target page (before ++ after) := by
  have hne : target ≠ source := fun he => by
    rw [he, hsource] at htarget
    cases htarget
  have hfind : s.jobs.find? (fun j => j.isRelocate && decide (j.page = page)) =
      some ⟨.relocate source, page, target, progress⟩ := by
    rw [hj, List.find?_append, List.find?_eq_none.mpr fun j hm => by simp [hb j hm]]
    simp [Job.isRelocate]
  have herase : s.jobs.eraseP (fun j => j.isRelocate && decide (j.page = page)) = before ++ after := by
    rw [hj, List.eraseP_append_right _ fun j hm => by simp [hb j hm], List.eraseP_cons_of_pos (by simp [Job.isRelocate])]
  have hunpin := unpinFrame_of_not_held (s := { s with jobs := before ++ after }) (pf := source)
    (by rw [show State.frame { s with jobs := before ++ after } source = s.frame source from rfl, hsource]; nofun)
  have hframe : (State.setFrame { s with jobs := before ++ after } source
      { s.frame source with pins := (s.frame source).pins - 1 }).frame target = s.frame target :=
    State.setFrame_frame_of_ne _ _ hne
  have hrelease := releaseFrame_frees (s := State.setFrame { s with jobs := before ++ after } source
    { s.frame source with pins := (s.frame source).pins - 1 }) (pf := target)
    (by rw [hframe, htarget]; rfl) (by rw [hframe, hpins]) (by rw [hframe, hflag])
  rw [hframe] at hrelease
  rw [abandonRelocation_eq, dropRelocation, hfind]
  simp only [herase, Job.source?]
  rw [hunpin, show State.frame { s with jobs := before ++ after } source = s.frame source from rfl, hrelease]
  rfl

/-- A relocating page becomes POISONED, its relocation abandoned. -/
theorem poisonPage_of_relocating {source target : PF} {progress : Progress} {before after : List Job}
    (hj : s.jobs = before ++ ⟨.relocate source, page, target, progress⟩ :: after)
    (hb : ∀ j ∈ before, j.isRelocate = false) (hsource : (s.frame source).state = .mapped)
    (htarget : (s.frame target).state = .moving) (hpins : (s.frame target).pins = 0)
    (hflag : (s.frame target).retireOnRelease = false) (hrel : (s.entry page).relocating = true)
    (hlist : ∀ x ∈ s.relocations, x = page) :
    poisonPage page s = (s.poisoned page).abandoned source target page (before ++ after) := by
  have habandon := abandonRelocation_explicit (s := s.setEntry page { s.entry page with condition := .poisoned })
    hj hb hsource htarget hpins hflag
  have hrelocations : (State.abandoned (s.setEntry page { s.entry page with condition := .poisoned }) source target page
      (before ++ after)).relocations = s.relocations := rfl
  have hentry := setCondition_relocating s page .poisoned
  simp only [poisonPage]
  rw [if_pos (hentry.trans hrel), habandon, unlistRelocation_of_listed (by rw [hrelocations]; exact hlist)]
  rfl

/-! ### The access that meets the word -/

/-- A READ of one pin that meets an uncorrectable word of a MAPPED frame: recorded, its pin let go, the page poisoned. -/
theorem readFails_mapped {p : PortId} {r : Request} {session : Option Slot} {a : ReadAccess} {todo : List ReadAccess}
    {data : List Byte} (hserv : (s.port p).inService = some ⟨r, session, .reading [a.frame] (a :: todo) data⟩)
    (hs : (s.frame a.frame).state = .mapped) (ho : (s.frame a.frame).owner = some (.page page)) (hn : s.NoFaultNotices) :
    readFails p ⟨r, session, .reading [a.frame] (a :: todo) data⟩ a (s.word a.frame a.word).diff s =
      respond p (.poisoned a.page) (poisonPage page
        (((s.marked a.frame a.word .read page).setPort p
          { s.port p with inService := some ⟨r, session, .atOnce⟩ }).setFrame a.frame
          { s.frame a.frame with pins := (s.frame a.frame).pins - 1, retireOnRelease := true })) := by
  have hport : (s.marked a.frame a.word .read page).port p = s.port p := rfl
  have hserv' : setService p session .atOnce (s.marked a.frame a.word .read page) =
      (s.marked a.frame a.word .read page).setPort p { s.port p with inService := some ⟨r, session, .atOnce⟩ } := by
    simp only [setService, hport, hserv]
  have hframe : ((s.marked a.frame a.word .read page).setPort p
      { s.port p with inService := some ⟨r, session, .atOnce⟩ }).frame a.frame =
      { s.frame a.frame with retireOnRelease := true } := State.setFrame_frame_self ..
  have hunpin := unpinFrame_of_not_held (pf := a.frame) (s := (s.marked a.frame a.word .read page).setPort p
    { s.port p with inService := some ⟨r, session, .atOnce⟩ }) (by rw [hframe]; simp [hs])
  rw [hframe] at hunpin
  simp only [readFails, uncorrectableRecord_mapped hs ho hn, stopService, hserv', unpinAll, List.foldl_cons, List.foldl_nil,
    hunpin, uncorrectableEffect_mapped hs ho]

end

end Sys2Proof.Machine
end

-- ==== An uncorrectable word in a MAPPED frame: the scrub read, the READ and the RELOCATE job ====
section
/-! PROOFS. The three readers of a page's frame, each meeting an uncorrectable word (R14, R131, R139, R142). -/

namespace Sys2Proof.Machine

section
variable {s : State} {page : LP}

/-- A frame of a POISONED page is not listed. -/
theorem examineFrame_of_poisoned {pf : PF} (hs : (s.frame pf).state = .mapped) (ho : (s.frame pf).owner = some (.page page))
    (hc : (s.entry page).condition = .poisoned) : examineFrame pf s = s := by
  simp [examineFrame, hs, ho, hc]

/-- A scrub read that meets an uncorrectable word of a MAPPED frame. -/
theorem scrubFails_mapped {pf : PF} {k : WordIx} (hs : (s.frame pf).state = .mapped)
    (ho : (s.frame pf).owner = some (.page page)) (hn : s.NoFaultNotices) (hrel : (s.entry page).relocating = false)
    (hlist : ∀ x ∈ s.relocations, x = page) :
    scrubFails pf k (s.word pf k).diff s = restartTimer ((({ s.marked pf k .scrub page with scrub := none } : State).setFrame
      pf { s.frame pf with pins := (s.frame pf).pins - 1, retireOnRelease := true }).poisoned page) := by
  have hframe : State.frame { s.marked pf k .scrub page with scrub := none } pf =
      { s.frame pf with retireOnRelease := true } := State.setFrame_frame_self ..
  have hunpin := unpinFrame_of_not_held (pf := pf) (s := { s.marked pf k .scrub page with scrub := none })
    (by rw [hframe]; simp [hs])
  rw [hframe] at hunpin
  obtain ⟨u, hu⟩ : ∃ u, u = ({ s.marked pf k .scrub page with scrub := none } : State).setFrame pf
    { s.frame pf with pins := (s.frame pf).pins - 1, retireOnRelease := true } := ⟨_, rfl⟩
  have hpoison : poisonPage page u = u.poisoned page := poisonPage_of_settled (by rw [hu]; exact hrel) (by rw [hu]; exact hlist)
  have hexamine : examineFrame pf (u.poisoned page) = u.poisoned page := by
    have hf : (u.poisoned page).frame pf =
        { s.frame pf with pins := (s.frame pf).pins - 1, retireOnRelease := true } := by
      rw [hu]
      exact State.setFrame_frame_self ..
    exact examineFrame_of_poisoned (page := page) (by rw [hf]; exact hs) (by rw [hf]; exact ho)
      (congrArg MapEntry.condition (State.setEntry_entry_self ..))
  simp only [scrubFails, uncorrectableRecord_mapped hs ho hn, hunpin, ← hu, uncorrectableEffect_mapped hs ho, hpoison,
    hexamine]

theorem retime_none (period : Nat) : retime period none = if period = 0 then none else some period := rfl

theorem clientAccess_scrub {pf : PF} {k : WordIx} (h : s.scrub = some ⟨pf, k.val⟩) :
    clientAccess 6 s = scrubStep ⟨pf, k.val⟩ k s := by
  have hwants : scrubWants ⟨pf, k.val⟩ = some k := dif_pos k.isLt
  simp only [clientAccess, h, hwants]

end

/-- The first part of O42. -/
theorem scrub_meets_uncorrectable (pf : PF) (k : WordIx) (page : LP) (s : State) (hq : s.QueueLaw)
    (hnext : nextClient s = some 6) (hscrub : s.scrub = some ⟨pf, k.val⟩)
    (hword : (s.word pf k).decode = .uncorrectable) (hs : (s.frame pf).state = .mapped)
    (ho : (s.frame pf).owner = some (.page page)) (hrel : (s.entry page).relocating = false)
    (hlist : ∀ x ∈ s.relocations, x = page) (hn : s.NoFaultNotices) :
    exec (.storeArbiterGrant 0) s = .next (restartTimer
      ((({ State.marked { s with lastGranted := 6 } pf k .scrub page with scrub := none } : State).setFrame
        pf { s.frame pf with pins := (s.frame pf).pins - 1, retireOnRelease := true }).poisoned page)) := by
  have hword' : (State.word { s with lastGranted := 6 } pf k).decode = .uncorrectable := hword
  have hfails := scrubFails_mapped (s := { s with lastGranted := 6 }) (k := k) hs ho hn hrel hlist
  rw [exec_grant_zero hnext, clientAccess_scrub (s := { s with lastGranted := 6 }) hscrub]
  simp only [scrubStep, hword', hfails]
  exact congrArg Host.Outcome.next (endEvent_of_unlisted rfl hq)

/-- A READ of one pin meets an uncorrectable word of a page's frame: the poisoning of the page is what the cases tell apart. -/
theorem read_meets_uncorrectable {s u : State} {p : PortId} {r : Request} {session : Option Slot} {a : ReadAccess}
    {todo : List ReadAccess} {data : List Byte} {page : LP} (hq : s.QueueLaw) (hnext : nextClient s = some (p.val + 1))
    (hreq : (s.port p).requests = [])
    (hserv : (s.port p).inService = some ⟨r, session, .reading [a.frame] (a :: todo) data⟩)
    (hword : (s.word a.frame a.word).decode = .uncorrectable) (hs : (s.frame a.frame).state = .mapped)
    (ho : (s.frame a.frame).owner = some (.page page)) (hn : s.NoFaultNotices)
    (hu : poisonPage page (((State.marked { s with lastGranted := p.val + 1 } a.frame a.word .read page).setPort p
        { s.port p with inService := some ⟨r, session, .atOnce⟩ }).setFrame a.frame
        { s.frame a.frame with pins := (s.frame a.frame).pins - 1, retireOnRelease := true }) = u)
    (hlist : u.relocations = []) (hports : ∀ q, u.port q =
      if q = p then { s.port p with inService := some ⟨r, session, .atOnce⟩ } else s.port q) :
    exec (.storeArbiterGrant 0) s = .next (u.replied p r (.poisoned a.page)) := by
  have hserv' : (State.port { s with lastGranted := p.val + 1 } p).inService =
    some ⟨r, session, .reading [a.frame] (a :: todo) data⟩ := hserv
  have hword' : (State.word { s with lastGranted := p.val + 1 } a.frame a.word).decode = .uncorrectable := hword
  have hfails := readFails_mapped (s := { s with lastGranted := p.val + 1 }) hserv' hs ho hn
  have haccess : portAccess p { s with lastGranted := p.val + 1 } = respond p (.poisoned a.page) u := by
    simp only [portAccess, hserv', readStep, hword', hfails]
    exact congrArg (respond p (.poisoned a.page)) hu
  have hport : u.port p = { s.port p with inService := some ⟨r, session, .atOnce⟩ } := by rw [hports, if_pos rfl]
  have hqu : u.QueueLaw := fun q => by
    rw [hports]
    split
    · simp [PortRec.waiting]
    · exact hq q
  rw [exec_grant_zero hnext, clientAccess_port, haccess,
    respond_eq_replied (session := session) (stage := .atOnce) (by rw [hport]),
    endEvent_replied ⟨relocationDue_nil hlist, hqu⟩ (by rw [hport]; exact hreq)]

/-- A RELOCATE job that meets an uncorrectable word of its source. -/
theorem relocate_meets_uncorrectable {s : State} {source target : PF} {page : LP} {k : WordIx} {after : List Job}
    (hq : s.QueueLaw) (hj : s.jobs = ⟨.relocate source, page, target, .fillRead k⟩ :: after)
    (hothers : ∀ j ∈ after, j.isRelocate = false) (hs : (s.frame source).state = .mapped)
    (ho : (s.frame source).owner = some (.page page)) (hrel : (s.entry page).relocating = true)
    (htarget : (s.frame target).state = .moving) (hpins : (s.frame target).pins = 0)
    (hflag : (s.frame target).retireOnRelease = false) (hlist : ∀ x ∈ s.relocations, x = page) (hn : s.NoFaultNotices)
    (hnext : nextClient s = some 5) (hword : (s.word source k).decode = .uncorrectable) :
    exec (.storeArbiterGrant 0) s = .next
      (((State.marked { s with lastGranted := 5 } source k .relocate page).poisoned page).abandoned source target page
        after) := by
  have hne : target ≠ source := fun he => by
    rw [he, hs] at htarget
    cases htarget
  have hword' : (State.word { s with lastGranted := 5 } source k).decode = .uncorrectable := hword
  obtain ⟨u, hu⟩ : ∃ u, u = State.marked { s with lastGranted := 5 } source k .relocate page := ⟨_, rfl⟩
  have hrecord : uncorrectableRecord source k (State.word { s with lastGranted := 5 } source k).diff .relocate
      { s with lastGranted := 5 } = u := by
    rw [hu]
    exact uncorrectableRecord_mapped (s := { s with lastGranted := 5 }) hs ho hn k .relocate
  have hsource : u.frame source = { s.frame source with retireOnRelease := true } := by
    rw [hu]
    exact State.setFrame_frame_self ..
  have hframe : u.frame target = s.frame target := by
    rw [hu]
    exact State.setFrame_frame_of_ne _ _ hne
  have hpoison := poisonPage_of_relocating (s := u) (before := []) (by rw [hu]; exact hj) nofun
    (by rw [hsource]; exact hs) (by rw [hframe]; exact htarget) (by rw [hframe]; exact hpins) (by rw [hframe]; exact hflag)
    (by rw [hu]; exact hrel) (by rw [hu]; exact hlist)
  have heffect : uncorrectableEffect source (State.frame { s with lastGranted := 5 } source) u =
      (u.poisoned page).abandoned source target page after := (uncorrectableEffect_mapped hs ho u).trans hpoison
  have hhead : ¬ (after.head?.map Job.kind = some (.relocate source)) := fun he => by
    obtain ⟨j, hmem, hk⟩ := Option.map_eq_some_iff.mp he
    have := hothers j (List.mem_of_mem_head? hmem)
    simp [Job.isRelocate, hk] at this
  have haccess : jobStep ⟨.relocate source, page, target, .fillRead k⟩ { s with lastGranted := 5 } =
      (u.poisoned page).abandoned source target page after := by
    simp only [jobStep, Job.source?, fillStep, hword', relocateFails, hrecord, heffect]
    exact if_neg hhead
  rw [exec_grant_zero hnext, clientAccess_job (s := { s with lastGranted := 5 }) hj, haccess, hu]
  exact congrArg Host.Outcome.next (endEvent_of_unlisted rfl hq)

end Sys2Proof.Machine
end

-- ==== A page poisoned: the scrub read, the READ, the relocation abandoned ====
section
/-! PROOFS. The settlement of what an uncorrectable word in a page's frame does. -/

namespace Sys2Proof.Machine

section
variable (s : State) (pf : PF) (k : WordIx) (context : ReadContext) (page : LP)

theorem marked_log : (s.marked pf k context page).log =
    (if s.log.length < 16 then s.log else s.log.drop (s.log.length - 15)) ++ [uncorrectableEntry s pf k context page] :=
  congrArg (· ++ _) (trimmedLog_eq s)

theorem marked_frame (other : PF) : (s.marked pf k context page).frame other =
    if other = pf then { s.frame pf with retireOnRelease := true } else s.frame other := State.setFrame_frame ..

theorem poisoned_entry (other : LP) : (s.poisoned page).entry other =
    if other = page then { s.entry page with condition := .poisoned } else s.entry other := State.setEntry_entry ..

theorem abandoned_entry (source target : PF) (jobs : List Job) (other : LP) :
    (s.abandoned source target page jobs).entry other =
      if other = page then { s.entry page with relocating := false } else s.entry other := State.setEntry_entry ..

theorem abandoned_frame (source target : PF) (jobs : List Job) (other : PF) :
    (s.abandoned source target page jobs).frame other =
      if other = target then { s.frame target with state := .free, owner := none }
      else if other = source then { s.frame source with pins := (s.frame source).pins - 1 } else s.frame other :=
  (State.setFrame_frame _ target other _).trans (if_congr Iff.rfl rfl (State.setFrame_frame _ source other _))

theorem replied_port (p : PortId) (r : Request) (a : Answer) (q : PortId) : (s.replied p r a).port q =
    if q = p then
      { s.port p with
        responses := (s.port p).responses ++ [⟨r.tag, a⟩]
        inService := none
        attn := s.settings.respMask[p] || (s.settings.noteMask[p] && !(s.port p).notices.isEmpty) }
    else s.port q := State.setPort_port ..

end

/-- The state in which a READ of one pin recorded an uncorrectable word and let its pin go, its request still to be answered. -/
def State.readMarked (s : State) (p : PortId) (r : Request) (session : Option Slot) (a : ReadAccess) (page : LP) : State :=
  ((State.marked { s with lastGranted := p.val + 1 } a.frame a.word .read page).setPort p
    { s.port p with inService := some ⟨r, session, .atOnce⟩ }).setFrame a.frame
    { s.frame a.frame with pins := (s.frame a.frame).pins - 1, retireOnRelease := true }

section
variable (s : State) (p : PortId) (r : Request) (session : Option Slot) (a : ReadAccess) (page : LP)

theorem readMarked_frame (other : PF) : (s.readMarked p r session a page).frame other =
    if other = a.frame then { s.frame a.frame with pins := (s.frame a.frame).pins - 1, retireOnRelease := true }
    else s.frame other := by
  refine (State.setFrame_frame _ a.frame other _).trans ?_
  split
  · rfl
  · next h => exact State.setFrame_frame_of_ne _ _ h

theorem readMarked_port (q : PortId) : (s.readMarked p r session a page).port q =
    if q = p then { s.port p with inService := some ⟨r, session, .atOnce⟩ } else s.port q := State.setPort_port ..

end

/-- The port of a READ that was answered, the others as they were. -/
theorem replied_readMarked_port {u s : State} {p : PortId} {r : Request} {session : Option Slot}
    (hu : ∀ q, u.port q = if q = p then { s.port p with inService := some ⟨r, session, .atOnce⟩ } else s.port q)
    (hsettings : u.settings = s.settings) (x : Answer) :
    (u.replied p r x).port p =
      { s.port p with
        responses := (s.port p).responses ++ [⟨r.tag, x⟩]
        inService := none
        attn := s.settings.respMask[p] || (s.settings.noteMask[p] && !(s.port p).notices.isEmpty) } ∧
    ∀ q, q ≠ p → (u.replied p r x).port q = s.port q := by
  refine ⟨?_, fun q hq => ?_⟩
  · rw [replied_port, if_pos rfl, hu, if_pos rfl, hsettings]
  · rw [replied_port, if_neg hq, hu, if_neg hq]

/-- A READ's record of an uncorrectable word changes frames, the log and its port. -/
theorem readMarked_books (s : State) (p : PortId) (r : Request) (session : Option Slot) (a : ReadAccess) (page : LP) :
    s.readMarked p r session a page = { s with
      frames := (s.readMarked p r session a page).frames, log := (s.readMarked p r session a page).log,
      nextSeq := (s.readMarked p r session a page).nextSeq, ports := (s.readMarked p r session a page).ports,
      lastGranted := p.val + 1 } := rfl

/-- The poisoning of a relocating page changes the map, frames, the pool, jobs and the relocation list. -/
theorem abandoned_books {u s v : State} {n : Nat} (h : u = { s with
      frames := u.frames, log := u.log, nextSeq := u.nextSeq, ports := u.ports, lastGranted := n })
    {source target : PF} {page : LP} {jobs : List Job} (hv : v = (u.poisoned page).abandoned source target page jobs) :
    v = { s with
      map := v.map, frames := v.frames, pool := v.pool, jobs := v.jobs, relocations := [], log := v.log,
      nextSeq := v.nextSeq, ports := v.ports, lastGranted := n } := by
  have hu : v = { u with map := v.map, frames := v.frames, pool := v.pool, jobs := v.jobs, relocations := [] } := by
    rw [hv]
    rfl
  have hlog : v.log = u.log := by rw [hv]; rfl
  have hseq : v.nextSeq = u.nextSeq := by rw [hv]; rfl
  have hports : v.ports = u.ports := by rw [hv]; rfl
  rw [hlog, hseq, hports]
  refine hu.trans ?_
  exact congrArg (fun w : State =>
    { w with map := v.map, frames := v.frames, pool := v.pool, jobs := v.jobs, relocations := [] }) h

/-- An answer changes ports alone. -/
theorem replied_books {u s : State} {n : Nat} (h : u = { s with
      map := u.map, frames := u.frames, pool := u.pool, jobs := u.jobs, relocations := [], log := u.log,
      nextSeq := u.nextSeq, ports := u.ports, lastGranted := n }) (p : PortId) (r : Request) (x : Answer) :
    u.replied p r x = { s with
      map := (u.replied p r x).map, frames := (u.replied p r x).frames, pool := (u.replied p r x).pool,
      jobs := (u.replied p r x).jobs, relocations := [], log := (u.replied p r x).log,
      nextSeq := (u.replied p r x).nextSeq, ports := (u.replied p r x).ports, lastGranted := n } :=
  congrArg (fun v : State => { v with ports := (u.replied p r x).ports }) h

/-- Settles O42: the three readers, the page's relocation abandoned where there is one. -/
theorem uncorrectableMappedWordPoisons : Obligations.UncorrectableMappedWordPoisons := by
  refine ⟨fun pf k page s hq hnext hscrub hword hs ho hrel hlist hn => ?_,
    fun p r session a todo data page s hq hnext hreq hserv hword hs ho hrel hlist hn => ?_,
    fun source target page progress before after s hq hj hothers hs ho hrel htarget hpins hflag hlist hn =>
      ⟨fun k hbefore hprogress hnext hword => ?_,
       fun p r session a todo data hnext hreq hserv hsource hword => ?_⟩⟩
  · refine ⟨_, scrub_meets_uncorrectable pf k page s hq hnext hscrub hword hs ho hrel hlist hn, ?_, ?_, ?_,
      retime_none _, rfl, fun other hother => ?_, fun other hother => ?_⟩
    · exact State.setEntry_entry_self ..
    · exact State.setFrame_frame_self ..
    · exact marked_log { s with lastGranted := 6 } pf k .scrub page
    · exact State.setEntry_entry_of_ne _ _ hother
    · refine (State.setFrame_frame_of_ne _ _ hother).trans ?_
      exact State.setFrame_frame_of_ne _ _ hother
  · have hports := readMarked_port s p r session a page
    have hexec := read_meets_uncorrectable hq hnext hreq hserv hword hs ho hn
      (poisonPage_of_settled (s := s.readMarked p r session a page) hrel hlist) rfl hports
    obtain ⟨hport, hothers⟩ := replied_readMarked_port (u := (s.readMarked p r session a page).poisoned page) hports rfl
      (.poisoned a.page)
    refine ⟨_, hexec, ?_, ?_, ?_, ?_, ?_, hport, hothers, fun other hother => ?_, fun other hother => ?_, rfl⟩
    · exact State.setEntry_entry_self ..
    · exact State.setFrame_frame_self ..
    · rw [hport]
    · rw [hport]
    · exact marked_log { s with lastGranted := p.val + 1 } a.frame a.word .read page
    · exact State.setEntry_entry_of_ne _ _ hother
    · exact (readMarked_frame s p r session a page other).trans (if_neg hother)
  · subst hbefore hprogress
    have hne : target ≠ source := fun he => by
      rw [he, hs] at htarget
      cases htarget
    refine ⟨_, relocate_meets_uncorrectable hq hj hothers hs ho hrel htarget hpins hflag hlist hn hnext hword,
      ⟨?_, fun other hother => ?_, ?_, ?_, fun other hsource hother => ?_, rfl, rfl, rfl, ?_, rfl⟩, rfl⟩
    · rw [abandoned_entry, if_pos rfl, poisoned_entry, if_pos rfl]
      rfl
    · rw [abandoned_entry, if_neg hother, poisoned_entry, if_neg hother]
      rfl
    · rw [abandoned_frame, if_neg hne.symm, if_pos rfl]
      exact congrArg (fun f : FrameRec => { f with pins := f.pins - 1 }) ((marked_frame ..).trans (if_pos rfl))
    · rw [abandoned_frame, if_pos rfl]
      exact congrArg (fun f : FrameRec => { f with state := .free, owner := none })
        ((marked_frame _ source k .relocate page target).trans (if_neg hne))
    · rw [abandoned_frame, if_neg hother, if_neg hsource]
      exact (marked_frame ..).trans (if_neg hsource)
    · exact marked_log { s with lastGranted := 5 } source k .relocate page
  · subst hsource
    have hne : target ≠ a.frame := fun he => by
      rw [he, hs] at htarget
      cases htarget
    have hports := readMarked_port s p r session a page
    have hframe : (s.readMarked p r session a page).frame target = s.frame target :=
      (readMarked_frame ..).trans (if_neg hne)
    have hself : (s.readMarked p r session a page).frame a.frame =
        { s.frame a.frame with pins := (s.frame a.frame).pins - 1, retireOnRelease := true } :=
      (readMarked_frame ..).trans (if_pos rfl)
    have hexec := read_meets_uncorrectable hq hnext hreq hserv hword hs ho hn
      (poisonPage_of_relocating (s := s.readMarked p r session a page) hj
        (fun j hm => hothers j (List.mem_append_left _ hm)) (by rw [hself]; exact hs) (by rw [hframe]; exact htarget)
        (by rw [hframe]; exact hpins) (by rw [hframe]; exact hflag) hrel hlist) rfl hports
    have hbooks := abandoned_books (readMarked_books s p r session a page)
      (source := a.frame) (target := target) (page := page) (jobs := before ++ after) rfl
    obtain ⟨hport, hothers'⟩ := replied_readMarked_port
      (u := ((s.readMarked p r session a page).poisoned page).abandoned a.frame target page (before ++ after)) hports
      (by rw [hbooks]) (.poisoned a.page)
    refine ⟨_, hexec, ⟨?_, fun other hother => ?_, ?_, ?_, fun other hsource hother => ?_, rfl, rfl, rfl, ?_, rfl⟩,
      ?_, ?_, hothers', replied_books hbooks p r _⟩
    · refine (abandoned_entry _ page a.frame target (before ++ after) page).trans ((if_pos rfl).trans ?_)
      rw [poisoned_entry, if_pos rfl]
      rfl
    · refine (abandoned_entry _ page a.frame target (before ++ after) other).trans ((if_neg hother).trans ?_)
      rw [poisoned_entry, if_neg hother]
      rfl
    · refine (abandoned_frame _ page a.frame target (before ++ after) a.frame).trans ((if_neg hne.symm).trans ((if_pos rfl).trans ?_))
      exact congrArg (fun f : FrameRec => { f with pins := f.pins - 1 }) hself
    · refine (abandoned_frame _ page a.frame target (before ++ after) target).trans ((if_pos rfl).trans ?_)
      exact congrArg (fun f : FrameRec => { f with state := .free, owner := none }) hframe
    · refine (abandoned_frame _ page a.frame target (before ++ after) other).trans ((if_neg hother).trans ((if_neg hsource).trans ?_))
      exact (readMarked_frame ..).trans (if_neg hsource)
    · exact marked_log { s with lastGranted := p.val + 1 } a.frame a.word .read page
    · rw [hport]
    · rw [hport]

end Sys2Proof.Machine
end

-- ==== What the abort of a session ends, and what it leaves ====
section
/-! PROOFS. The abort of a session with its group as a relation between the states before and after it: which sessions end,
and that pages, wires and the other sessions and ports are left alone (R38, R48, R51). -/

namespace Sys2Proof.Machine

/-- A session's record stands, or has its FREE values in these fields. -/
def SessionRec.StandsOrFreed (r r' : SessionRec) : Prop :=
  (r'.state = .free ∧ r'.port = none ∧ r'.group = none) ∨ (r'.state = r.state ∧ r'.port = r.port ∧ r'.group = r.group)

theorem SessionRec.StandsOrFreed.trans {r r' r'' : SessionRec} (h : r.StandsOrFreed r') (h' : r'.StandsOrFreed r'') :
    r.StandsOrFreed r'' := by
  rcases h' with hfree | ⟨hs, hp, hg⟩
  · exact .inl hfree
  · simpa only [SessionRec.StandsOrFreed, hs, hp, hg] using h

/-- Sessions end, and nothing else of what an abort leaves alone changes. -/
structure State.Ends (s t : State) (ended : Slot → Prop) : Prop where
  others     : s.KeepsOthers t ended (fun _ => False)
  pages      : s.SamePages t
  wires      : s.SameWires t
  generation : ∀ x, (t.session x).generation = (s.session x).generation
  standing   : ∀ x, (s.session x).StandsOrFreed (t.session x)
  members    : ∀ g m, m ∈ (t.group g).members → m ∈ (s.group g).members

namespace State.Ends

variable {s t u : State} {ended ended' : Slot → Prop}

theorem trans (h : s.Ends t ended) (h' : t.Ends u ended) : s.Ends u ended :=
  ⟨h.others.trans h'.others, h.pages.trans h'.pages, h.wires.trans h'.wires,
   fun x => (h'.generation x).trans (h.generation x), fun x => (h.standing x).trans (h'.standing x),
   fun g m hm => h.members g m (h'.members g m hm)⟩

theorem mono (h : s.Ends t ended) (he : ∀ x, ended x → ended' x) : s.Ends t ended' :=
  { h with others := h.others.mono he fun _ => id }

theorem port (h : s.Ends t ended) {x : Slot} {p : PortId} (hp : (t.session x).port = some p) :
    (s.session x).port = some p := by
  rcases h.standing x with ⟨-, hnone, -⟩ | ⟨-, hport, -⟩
  · rw [hnone] at hp; cases hp
  · rw [← hport]; exact hp

theorem group (h : s.Ends t ended) {x : Slot} {g : GroupIx} (hg : (t.session x).group = some g) :
    (s.session x).group = some g := by
  rcases h.standing x with ⟨-, -, hnone⟩ | ⟨-, -, hgroup⟩
  · rw [hnone] at hg; cases hg
  · rw [← hgroup]; exact hg

/-- What ends with a session after other sessions ended would have ended with it before. -/
theorem endsWith (h : s.Ends t ended) {x first : Slot} (hx : t.EndsWith x first) : s.EndsWith x first :=
  hx.imp id fun ⟨g, hg, hm⟩ => ⟨g, h.group hg, h.members g x hm⟩

end State.Ends

section
variable {s t : State}

theorem State.Calm.ends (h : s.Calm t) {ended : Slot → Prop} : s.Ends t ended where
  others := h.keepsOthers
  pages := h.pages
  wires := h.wires
  generation x := (h.others.sessions x id).2.1
  standing x := by
    obtain ⟨hs, -, hp, hg, -⟩ := h.others.sessions x id
    exact .inr ⟨hs, hp, hg⟩
  members g m hm := by simpa only [State.group, h.groups] using hm

/-- A slot becomes FREE. -/
theorem freeSession_ends (s : State) (slot : Slot) : s.Ends (freeSession slot s) (· = slot) where
  others := modifySession_keepsOthers s slot _
  pages := .of_map rfl
  wires _ := ⟨rfl, rfl⟩
  generation x := by
    rw [freeSession, modifySession, State.setSession_session]
    split
    · next hx => rw [hx]
    · rfl
  standing x := by
    rw [freeSession, modifySession, State.setSession_session]
    split
    · exact .inl ⟨rfl, rfl, rfl⟩
    · exact .inr ⟨rfl, rfl, rfl⟩
  members _ _ hm := hm

theorem freeSession_free (s : State) (slot : Slot) : ((freeSession slot s).session slot).state = .free ∧
    ((freeSession slot s).session slot).port = none := by
  simp [freeSession, modifySession, SessionRec.reset]

theorem abortHold_ends (s : State) (slot : Slot) (reason : AbortReason) :
    s.Ends (abortHold slot reason s) (· = slot) := by
  have h1 := (abortService_calm s slot).trans (withdraw_calm _ slot (s.session slot).shadows)
  have h2 := abortReport_calm (modifySession slot (fun r => { r with guards := [] })
    (withdraw slot (s.session slot).shadows (abortService slot s))) slot reason
  have hguards : (withdraw slot (s.session slot).shadows (abortService slot s)).Ends (modifySession slot
      (fun r => { r with guards := [] }) (withdraw slot (s.session slot).shadows (abortService slot s))) (· = slot) := by
    refine ⟨modifySession_keepsOthers _ _ _, .of_map rfl, fun _ => ⟨rfl, rfl⟩, fun x => ?_, fun x => ?_, fun _ _ hm => hm⟩
    · rw [modifySession, State.setSession_session]
      split
      · next hx => rw [hx]
      · rfl
    · rw [modifySession, State.setSession_session]
      split
      · next hx => exact hx ▸ .inr ⟨rfl, rfl, rfl⟩
      · exact .inr ⟨rfl, rfl, rfl⟩
  rw [abortHold_eq]
  exact h1.ends.trans (hguards.trans h2.ends)

theorem abortMember_ends (s : State) (slot : Slot) : s.Ends (abortMember slot s) (· = slot) := by
  simp only [abortMember]
  split
  · exact (calm_refl s).ends
  · exact (abortHold_ends s slot .group).trans (freeSession_ends _ slot)

/-- A group becomes IDLE and empty. -/
theorem disband_ends (s : State) (g : GroupIx) {ended : Slot → Prop} : s.Ends (s.setGroup g GroupRec.reset) ended where
  others := { (State.Background.refl s).keepsOthers (ended := ended) (cleared := fun _ => False) with }
  pages := .of_map rfl
  wires _ := ⟨rfl, rfl⟩
  generation _ := rfl
  standing _ := .inr ⟨rfl, rfl, rfl⟩
  members x m hm := by
    rw [State.setGroup_group] at hm
    split at hm
    · cases hm
    · exact hm

theorem abortMembers_ends (s : State) (l : List Slot) :
    s.Ends (l.foldl (fun t m => abortMember m t) s) (· ∈ l) := by
  induction l generalizing s with
  | nil => exact (calm_refl s).ends
  | cons m l ih =>
    exact ((abortMember_ends s m).mono fun x hx => hx ▸ List.mem_cons_self ..).trans
      ((ih _).mono fun x hx => List.mem_cons_of_mem _ hx)

theorem abortGroup_ends (s : State) (g : GroupIx) (first : Slot) (reason : AbortReason) :
    s.Ends (abortGroup g first reason s) (· ∈ (s.group g).members) := by
  have hmembers := ((abortMembers_ends s ((s.group g).members.filter (· ≠ first))).mono
    fun x hx => List.mem_of_mem_filter hx).trans (disband_ends _ g)
  simp only [abortGroup]
  split
  · exact hmembers.trans (queueNotice_calm ..).ends
  · exact hmembers

/-- The abort of a session ends it and what ends with it. -/
theorem abortSession_ends (s : State) (slot : Slot) (reason : AbortReason) :
    s.Ends (abortSession slot reason s) (fun x => s.EndsWith x slot) := by
  have hself : ∀ x, x = slot → s.EndsWith x slot := fun x hx => .inl hx
  have hhold := (abortHold_ends s slot reason).mono hself
  have hfree : ∀ u : State, u.Ends (freeSession slot u) (fun x => s.EndsWith x slot) := fun u =>
    (freeSession_ends u slot).mono hself
  simp only [abortSession]
  split
  · exact (calm_refl s).ends
  · split
    · exact hhold.trans (hfree _)
    · next g hg =>
      have hmembers : ((abortHold slot reason s).group g).members = (s.group g).members := by
        simp only [State.group, (abortHold_keeps s slot reason).2.1]
      refine hhold.trans (((abortGroup_ends _ g slot reason).mono fun x hx => ?_).trans (hfree _))
      exact .inr ⟨g, hg, hmembers ▸ hx⟩

/-- An aborted session is FREE. -/
theorem abortSession_free (s : State) (slot : Slot) (reason : AbortReason) :
    ((abortSession slot reason s).session slot).state = .free := by
  simp only [abortSession]
  split
  · next h => exact h
  · exact (freeSession_free _ slot).1

/-! ### The abort of a port's sessions -/

/-- The aborts of a port's sessions, one after another, end those sessions and what ends with them. -/
theorem abortPortSlots_ends (s : State) (p : PortId) (l : List Slot) :
    s.Ends (l.foldl (fun t slot => if (t.session slot).port = some p then abortSession slot .portReset t else t) s)
      (fun x => ∃ first, (s.session first).port = some p ∧ s.EndsWith x first) := by
  induction l generalizing s with
  | nil => exact (calm_refl s).ends
  | cons slot l ih =>
    rw [List.foldl_cons]
    split
    · next hp =>
      have habort := abortSession_ends s slot .portReset
      exact (habort.mono fun x hx => ⟨slot, hp, hx⟩).trans
        ((ih _).mono fun x ⟨first, hport, hx⟩ => ⟨first, habort.port hport, habort.endsWith hx⟩)
    · exact ih s

/-- A session of the port that stood before the aborts is FREE after its turn. -/
theorem abortPortSlots_free (s : State) (p : PortId) {l : List Slot} {x : Slot} (hx : x ∈ l)
    (hp : (s.session x).port = some p ∨ (s.session x).state = .free) :
    ((l.foldl (fun t slot => if (t.session slot).port = some p then abortSession slot .portReset t else t) s).session
      x).state = .free := by
  have hstays : ∀ (u : State) (l : List Slot), (u.session x).state = .free →
      ((l.foldl (fun t slot => if (t.session slot).port = some p then abortSession slot .portReset t else t) u).session
        x).state = .free := fun u l hu => by
    rcases (abortPortSlots_ends u p l).standing x with ⟨hfree, -⟩ | ⟨hs, -⟩
    · exact hfree
    · exact hs.trans hu
  induction l generalizing s with
  | nil => cases hx
  | cons slot l ih =>
    rw [List.foldl_cons]
    by_cases hslot : x = slot
    · subst hslot
      refine hstays _ _ ?_
      split
      · exact abortSession_free ..
      · next hne => exact hp.resolve_left hne
    · have hmem := (List.mem_cons.mp hx).resolve_left hslot
      split
      · refine ih _ hmem ?_
        rcases (abortSession_ends s slot .portReset).standing x with ⟨hfree, -⟩ | ⟨hs, hport, -⟩
        · exact .inr hfree
        · exact hp.imp (fun h => hport.trans h) fun h => hs.trans h
      · exact ih _ hmem hp

end

end Sys2Proof.Machine
end

-- ==== The port reset ====
section
/-! PROOFS. PRESET: the frame's end, the drop of the request in service, the aborts of the port's sessions, the cleared record,
and what follows the event (R54, R170). -/

namespace Sys2Proof.Machine

theorem startRelocation_ports (s : State) : (startRelocation s).ports = s.ports := by
  cases hd : relocationDue s with
  | none => rw [startRelocation_of_none hd]
  | some page =>
    cases hp : s.pool with
    | nil => rw [startRelocation_of_empty hp]
    | cons target rest =>
      rw [startRelocation_eq hd hp]
      rfl

theorem startRelocation_port (s : State) (p : PortId) : (startRelocation s).port p = s.port p := by
  simp only [State.port, startRelocation_ports]

/-- Where no port's queue holds a request, none is taken after an event. -/
theorem endEvent_of_noneQueued {s : State} (h : s.NoneQueued) : endEvent s = startRelocation s := by
  refine settle_of_queueLaw fun q => ?_
  rw [startRelocation_port, PortRec.waiting, h q, List.isEmpty_nil, Bool.not_true, Bool.and_false]

section
variable (s : State) (p : PortId)

theorem clearPort_port : (clearPort p s).port p = { PortRec.reset with
    ready := (s.port p).ready, wire := (s.port p).wire, sdo := (s.port p).sdo } := by
  rw [clearPort, State.setPort_port_self]
  simp [PortRec.evalAttn, attnWanted, PortRec.reset, Config.credits]

theorem clearPort_keepsOthers {ended : Slot → Prop} : s.KeepsOthers (clearPort p s) ended (· = p) :=
  { (State.Background.refl s).keepsOthers (ended := ended) (cleared := (· = p)) with
    ports := fun q hq => by
      rw [clearPort, State.setPort_port_of_ne s _ hq]
      exact ⟨rfl, rfl, rfl, rfl, rfl⟩ }

theorem clearPort_samePages : s.SamePages (clearPort p s) := .of_map rfl

theorem dropService_calm : s.Calm (dropService p s) := by
  simp only [dropService]
  split
  · exact calm_refl s
  · exact (stopService_calm ..).trans (setService_calm ..)

theorem endFrame_keepsOthers (out : List Byte) {ended : Slot → Prop} : s.KeepsOthers (endFrame p out s) ended (· = p) :=
  { (State.Background.refl s).keepsOthers (ended := ended) (cleared := (· = p)) with
    ports := fun q hq => by
      rw [endFrame, State.setPort_port_of_ne s _ hq]
      exact ⟨rfl, rfl, rfl, rfl, rfl⟩ }

/-- A PRESET at an idle wire ends its frame with filler and resets the port. -/
theorem exec_preset {s : State} {p : PortId} (hw : (s.port p).wire = .idle) (more : List Byte) :
    exec (.preset p (0xFF#8 :: more)) s = .next (resetPort p
      (endFrame p ((s.port p).statusByte :: List.replicate (more.length + 1) 0x00#8) s)) := by
  have hwire : (s.port p).wireAt 0x5A#8 = some ((s.port p).statusByte, [], false) := by
    simp [PortRec.wireAt, hw, PortRec.fixRecord]
  simp only [exec, execPreset, releaseWire, hwire, checkedFrame, if_true, shiftedOut, List.take_nil, List.nil_append,
    List.length_nil, List.length_cons, Nat.sub_zero]

/-- The state of a READY port's reset before anything follows its event. -/
def State.portCleared (s : State) (p : PortId) : State := clearPort p (abortPort p (dropService p s))

theorem abortPort_ends : s.Ends (abortPort p (dropService p s))
    (fun x => ∃ first, (s.session first).port = some p ∧ s.EndsWith x first) := by
  have hdrop := (dropService_calm s p).ends (ended := fun x => ∃ first, (s.session first).port = some p ∧ s.EndsWith x first)
  exact hdrop.trans ((abortPortSlots_ends _ p _).mono fun x ⟨first, hp, hx⟩ => ⟨first, hdrop.port hp, hdrop.endsWith hx⟩)

/-- A session of the port is FREE after the aborts. -/
theorem abortPort_free {x : Slot} (hx : (s.session x).port = some p) : ((abortPort p s).session x).state = .free := by
  unfold abortPort
  exact abortPortSlots_free s p (List.mem_finRange x) (.inl hx)

theorem portCleared_session (x : Slot) : (s.portCleared p).session x = (abortPort p (dropService p s)).session x :=
  State.setPort_session ..

theorem portCleared_noneQueued (h : ∀ q, q ≠ p → (s.port q).requests = []) : (s.portCleared p).NoneQueued := fun q => by
  by_cases hq : q = p
  · subst hq
    rw [State.portCleared, clearPort_port]
    rfl
  · rw [State.portCleared, clearPort, State.setPort_port_of_ne _ _ hq, ((abortPort_ends s p).others.ports q id).2.1, h q hq]

end

/-- Settles O15: the port's record is cleared, its sessions are FREE, and what is left alone is said of each step. -/
theorem portReset : Obligations.PortReset := by
  refine ⟨fun p more s hwire hready hothers => ?_, fun p more s hwire hready => ?_⟩
  · obtain ⟨out, hout⟩ : ∃ out, out = (s.port p).statusByte :: List.replicate (more.length + 1) 0x00#8 := ⟨_, rfl⟩
    obtain ⟨u, hu⟩ : ∃ u, u = endFrame p out s := ⟨_, rfl⟩
    have hport : u.port p = { s.port p with wire := .idle, sdo := out } := by
      rw [hu]
      exact State.setPort_port_self ..
    have hrest : ∀ q, q ≠ p → u.port q = s.port q := fun q hq => by
      rw [hu]
      exact State.setPort_port_of_ne s _ hq
    have hsession : ∀ x, u.session x = s.session x := fun x => by
      rw [hu]
      exact State.setPort_session ..
    have hends := abortPort_ends u p
    have hexec : exec (.preset p (0xFF#8 :: more)) s = .next (startRelocation (u.portCleared p)) := by
      rw [exec_preset hwire, ← hout, ← hu, resetPort, if_pos (by rw [hport]; exact hready)]
      exact congrArg Host.Outcome.next (endEvent_of_noneQueued
        (portCleared_noneQueued u p fun q hq => by rw [hrest q hq]; exact hothers q hq))
    have hstart := startRelocation_background (u.portCleared p)
    refine ⟨_, hexec, ?_, fun slot hstate hsp => ?_, ?_, ?_⟩
    · have hready' := (hends.others.ports p id).1
      obtain ⟨hwire', hsdo'⟩ := hends.wires p
      rw [hport] at hready' hwire' hsdo'
      rw [startRelocation_port, State.portCleared, clearPort_port, hready', hwire', hsdo', hready, hout]
      rfl
    · obtain ⟨hs, hg, -⟩ :=
        (hstart.keepsOthers (ended := fun _ => False) (cleared := fun _ => False)).sessions slot id
      have hdropped : ((dropService p u).session slot).port = some p := by
        rw [((dropService_calm u p).others.sessions slot id).2.2.1, hsession]
        exact hsp
      rw [portCleared_session] at hs hg
      exact ⟨hs.trans (abortPort_free _ p hdropped), hg.trans ((hends.generation slot).trans (by rw [hsession]))⟩
    · have hpages : u.SamePages (startRelocation (u.portCleared p)) :=
        hends.pages.trans ((clearPort_samePages _ p).trans (startRelocation_samePages _))
      rw [hu] at hpages ⊢
      exact hpages
    · have hkeeps : u.KeepsOthers (startRelocation (u.portCleared p))
          (fun x => ∃ first, (u.session first).port = some p ∧ u.EndsWith x first) (· = p) :=
        (hends.others.mono (fun _ => id) (fun _ => False.elim)).trans
          ((clearPort_keepsOthers _ p).trans hstart.keepsOthers)
      rw [hu] at hkeeps ⊢
      exact (endFrame_keepsOthers s p out).trans hkeeps
  · have hsame : ({ s.port p with
        wire := .idle, sdo := (s.port p).statusByte :: List.replicate (more.length + 1) 0x00#8 } : PortRec) =
        { s.port p with sdo := (s.port p).statusByte :: List.replicate (more.length + 1) 0x00#8 } := by
      rw [← hwire]
    rw [exec_preset hwire, resetPort, endFrame, if_neg (by rw [State.setPort_port_self]; simp [hready]), hsame]

end Sys2Proof.Machine
end

-- ==== An uncorrectable word in a session's shadow ====
section
/-! PROOFS. A READ that meets an uncorrectable word in its own session's shadow aborts the session with reason MEDIA, and the
abort answers it (R14, R50, R130). -/

namespace Sys2Proof.Machine

/-- A set flag stays set through every edit. -/
theorem Edit.flag_stays {pf : PF} (s t : State) (h : Edit s t) (hf : (s.frame pf).retireOnRelease = true) :
    (t.frame pf).retireOnRelease = true := by
  have hset : ∀ (q : PF) (f : FrameRec), ((s.frame q).retireOnRelease = true → f.retireOnRelease = true) →
      ((s.setFrame q f).frame pf).retireOnRelease = true := fun q f hq => by
    rw [State.setFrame_frame]
    split
    · next he => exact hq (he ▸ hf)
    · exact hf
  cases h with
  | hold q hr hp => exact hset q _ id
  | retire q hr hp hflag => exact hset q _ id
  | free q hr hp hflag => exact hset q _ id
  | map q page hm => exact hset q _ id
  | pin q => exact hset q _ id
  | unpin q => exact hset q _ id
  | flag q => exact hset q _ fun _ => rfl
  | count q => exact hset q _ fun hq => by simp [hq]
  | allocate _ state owner q hs ha =>
    simp only [Machine.allocate] at ha
    split at ha
    · cases ha
    · cases ha
      exact hset _ _ id
  | configure record timer hr hfree =>
    have hframes : ∀ u : State, (evalAllAttn u).frames = u.frames := fun u => by
      unfold evalAllAttn
      exact foldl_keeps State.frames _ (fun t p => State.setPort_frames ..) _ _
    simpa only [State.frame, hframes] using hf
  | notice p body => simpa using hf
  | respond p a => simpa using hf
  | service p session stage => simpa using hf
  | discard p cause => simpa using hf
  | fetch p =>
    simp only [completeFetch]
    split <;> exact hf
  | _ => exact hf

section
variable {s : State}

/-- The page reported for a frame is that of the first shadow entry that names it (R47). -/
theorem shadowPage_eq {slot : Slot} {pf : PF} {before after : List ShadowEntry} {e : ShadowEntry}
    (h : (s.session slot).shadows = before ++ e :: after) (hb : ∀ b ∈ before, b.frame ≠ pf) (he : e.frame = pf) :
    s.shadowPage slot pf = e.page := by
  have hfind : ((s.session slot).shadows.find? fun x => x.frame = pf) = some e := by
    rw [h, List.find?_append, List.find?_eq_none.mpr fun b hm => by simpa using hb b hm]
    simp [he]
  simp only [State.shadowPage, hfind]

theorem uncorrectableEffect_shadow {pf : PF} {f : FrameRec} {slot : Slot} (hs : f.state = .shadow)
    (ho : f.owner = some (.session slot)) (s : State) :
    uncorrectableEffect pf f s = abortSession slot (.media (s.shadowPage slot pf)) s := by
  simp only [uncorrectableEffect, hs, ho]

theorem serviceNaming_of {p : PortId} {slot : Slot} {r : InService} (h : (s.port p).inService = some r)
    (hs : r.session = some slot) (ho : isAbortOp r.request.op = false) : s.serviceNaming p slot = some r := by
  simp [State.serviceNaming, h, hs, ho]

/-- The abort of a session in no group. -/
theorem abortSession_ungrouped {slot : Slot} (hs : (s.session slot).state ≠ .free) (hg : (s.session slot).group = none)
    (reason : AbortReason) : abortSession slot reason s = freeSession slot (abortHold slot reason s) := by
  rw [abortSession, if_neg hs]
  simp only [hg]

/-- An abort answers the request in service that names the session, by its reason (R50); other ports are told at most. -/
theorem abortHold_answers {p : PortId} {slot : Slot} {r : Request} {reason : AbortReason}
    (hport : (s.session slot).port = some p) (hserv : (s.port p).inService = some ⟨r, some slot, .atOnce⟩)
    (hop : isAbortOp r.op = false) (hreset : reason ≠ .portReset) (hrequested : reason ≠ .requested) :
    ((abortHold slot reason s).port p).inService = none ∧
      ((abortHold slot reason s).port p).responses = (s.port p).responses ++ [⟨r.tag, .aborted reason⟩] ∧
      ∀ q, q ≠ p → (s.port q).Told ((abortHold slot reason s).port q) := by
  have hservice : abortService slot s = s := by
    simp only [abortService, hport, serviceNaming_of hserv rfl hop, stopService]
  have hback := withdraw_background s slot (s.session slot).shadows
  obtain ⟨u, hu⟩ : ∃ u, u = modifySession slot (fun r => { r with guards := [] })
    (withdraw slot (s.session slot).shadows s) := ⟨_, rfl⟩
  have hports : ∀ q, u.port q = (withdraw slot (s.session slot).shadows s).port q := fun q => by
    rw [hu]
    exact State.setSession_port ..
  have huserv : (u.port p).inService = some ⟨r, some slot, .atOnce⟩ := by
    rw [hports, (hback.ports p).inService, hserv]
  have huport : (u.session slot).port = some p := by
    rw [hu, modifySession, State.setSession_session_self]
    obtain ⟨-, -, hp, -⟩ := (hback.keepsOthers (ended := fun _ => False) (cleared := fun _ => False)).sessions slot id
    exact hp.trans hport
  have hreport : abortReport slot reason u = respond p (.aborted reason) u := by
    simp only [abortReport, huport, serviceNaming_of huserv rfl hop]
  rw [abortHold_eq, hservice, ← hu, hreport, respond_eq_replied huserv]
  refine ⟨?_, ?_, fun q hq => ?_⟩
  · rw [replied_port, if_pos rfl]
  · rw [replied_port, if_pos rfl, hports, (hback.ports p).responses]
  · rw [replied_port, if_neg hq, hports]
    exact hback.ports q

/-- A READ in service stops using the store: its port still waits for its answer, other ports are told at most. -/
theorem stopService_answers {p : PortId} {r : Request} {session : Option Slot} {pins : List PF} {todo : List ReadAccess}
    {data : List Byte} (hserv : (s.port p).inService = some ⟨r, session, .reading pins todo data⟩) :
    ((stopService p ⟨r, session, .reading pins todo data⟩ s).port p).inService = some ⟨r, session, .atOnce⟩ ∧
      ((stopService p ⟨r, session, .reading pins todo data⟩ s).port p).responses = (s.port p).responses ∧
      ∀ q, q ≠ p → (s.port q).Told ((stopService p ⟨r, session, .reading pins todo data⟩ s).port q) := by
  have hservice : setService p session .atOnce s =
      s.setPort p { s.port p with inService := some ⟨r, session, .atOnce⟩ } := by
    simp only [setService, hserv]
  have hback := unpinAll_background (s.setPort p { s.port p with inService := some ⟨r, session, .atOnce⟩ }) pins
  simp only [stopService, hservice]
  refine ⟨?_, ?_, fun q hq => ?_⟩
  · rw [(hback.ports p).inService, State.setPort_port_self]
  · rw [(hback.ports p).responses, State.setPort_port_self]
  · simpa only [State.setPort_port_of_ne s _ hq] using hback.ports q

/-- An uncorrectable word of a session's shadow, met by a READ that names the session: the record, the stop of the READ and
the abort, which answers it. -/
theorem readFails_shadow {p : PortId} {r : Request} {slot : Slot} {pins : List PF} {a : ReadAccess}
    {todo : List ReadAccess} {data : List Byte} {before after : List ShadowEntry} {e : ShadowEntry} (syn : Syndrome)
    (hop : isAbortOp r.op = false)
    (hserv : (s.port p).inService = some ⟨r, some slot, .reading pins (a :: todo) data⟩)
    (hstate : (s.session slot).state ≠ .free) (hport : (s.session slot).port = some p)
    (hgroup : (s.session slot).group = none) (hshadows : (s.session slot).shadows = before ++ e :: after)
    (hbefore : ∀ b ∈ before, b.frame ≠ a.frame) (he : e.frame = a.frame) (hs : (s.frame a.frame).state = .shadow)
    (ho : (s.frame a.frame).owner = some (.session slot)) :
    ∃ u : State, readFails p ⟨r, some slot, .reading pins (a :: todo) data⟩ a syn s = freeSession slot u ∧
      s.Ends u (· = slot) ∧ u.groups = s.groups ∧ (u.port p).inService = none ∧
      (u.port p).responses = (s.port p).responses ++ [⟨r.tag, .aborted (.media e.page)⟩] ∧
      (∀ q, q ≠ p → (s.port q).Told (u.port q)) ∧ (u.frame a.frame).retireOnRelease = true := by
  obtain ⟨m, hm⟩ : ∃ m, m = uncorrectableRecord a.frame a.word syn .read s := ⟨_, rfl⟩
  obtain ⟨v, hv⟩ : ∃ v, v = stopService p ⟨r, some slot, .reading pins (a :: todo) data⟩ m := ⟨_, rfl⟩
  have hback : s.Background m := hm ▸ uncorrectableRecord_background ..
  have hmpages : s.SamePages m := .of_map (by rw [hm, uncorrectableRecord, flagFrame]; simp)
  have hmserv : (m.port p).inService = some ⟨r, some slot, .reading pins (a :: todo) data⟩ := by
    rw [(hback.ports p).inService, hserv]
  obtain ⟨hvserv, hvresp, hvtold⟩ := stopService_answers hmserv
  rw [← hv] at hvserv hvresp hvtold
  have hends : s.Ends v (· = slot) :=
    (hback.calm hmpages).ends.trans (hv ▸ (stopService_calm m p _).ends)
  have hsession : v.session slot = s.session slot := by
    have hsessions : m.sessions = s.sessions := by
      rw [hm, uncorrectableRecord, flagFrame]
      simp
    simp only [State.session, hv, (stopService_frame m p _).1, hsessions]
  have habort : uncorrectableEffect a.frame (s.frame a.frame) v =
      freeSession slot (abortHold slot (.media e.page) v) := by
    rw [uncorrectableEffect_shadow hs ho, shadowPage_eq (hsession ▸ hshadows) hbefore he,
      abortSession_ungrouped (hsession ▸ hstate) (hsession ▸ hgroup)]
  obtain ⟨hnone, hresp, htold⟩ := abortHold_answers (reason := .media e.page) (hsession ▸ hport) hvserv hop nofun nofun
  have hanswered : ((freeSession slot (abortHold slot (.media e.page) v)).port p).inService = none := hnone
  refine ⟨abortHold slot (.media e.page) v, ?_, hends.trans (abortHold_ends v slot _), ?_, hnone, ?_, fun q hq => ?_, ?_⟩
  · simp only [readFails, ← hm, ← hv, habort]
    simp only [respond, hanswered]
  · rw [(abortHold_keeps v slot _).2.1, hv, (stopService_calm m p _).groups, hback.groups]
  · rw [hresp, hvresp, (hback.ports p).responses]
  · exact ((hback.ports q).trans (hvtold q hq)).trans (htold q hq)
  · have hflag : (m.frame a.frame).retireOnRelease = true := by
      rw [hm, uncorrectableRecord, flagFrame, State.setFrame_frame_self]
    refine Edits.keeps Edit.flag_stays (abortHold_edits ..) (hv ▸ ?_)
    exact Edits.keeps Edit.flag_stays (stopService_edits ..) hflag

end

/-- Settles O43: the record, the stop of the READ, the abort that answers it, and nothing after. -/
theorem uncorrectableShadowWordAborts : Obligations.UncorrectableShadowWordAborts := by
  intro p r slot pins a todo data before e after s hq hnext hreq hop hserv hstate hport hgroup hshadows hbefore he hword hs ho
  obtain ⟨w, hw⟩ : ∃ w : State, w = { s with lastGranted := p.val + 1 } := ⟨_, rfl⟩
  have hwserv : (w.port p).inService = some ⟨r, some slot, .reading pins (a :: todo) data⟩ := hw ▸ hserv
  have hwword : (w.word a.frame a.word).decode = .uncorrectable := hw ▸ hword
  have hwshadows : (w.session slot).shadows = before ++ e :: after := by
    rw [hw]
    exact hshadows
  obtain ⟨u, hfails, hends, hgroups, hnone, hresp, htold, hflag⟩ := readFails_shadow (s := w)
    (w.word a.frame a.word).diff hop hwserv (hw ▸ hstate) (hw ▸ hport) (hw ▸ hgroup) hwshadows hbefore he
    (hw ▸ hs) (hw ▸ ho)
  have hports : ∀ q, (startRelocation (freeSession slot u)).port q = u.port q := fun q =>
    (startRelocation_port ..).trans (State.setSession_port ..)
  have hrequests : (u.port p).requests = [] := by
    rw [(hends.others.ports p id).2.1, hw]
    exact hreq
  have hlaw : (startRelocation (freeSession slot u)).QueueLaw := fun q => by
    rw [hports, PortRec.waiting]
    by_cases hqp : q = p
    · rw [hqp, hrequests]
      simp
    · rw [(htold q hqp).inService, (htold q hqp).requests, hw]
      exact hq q
  have hexec : exec (.storeArbiterGrant 0) s = .next (startRelocation (freeSession slot u)) := by
    have haccess : portAccess p w = freeSession slot u := by
      simp only [portAccess, hwserv, readStep, hwword, hfails]
    rw [exec_grant_zero hnext, clientAccess_port, ← hw, haccess, endEvent, settle_of_queueLaw hlaw]
  have hstart := startRelocation_background (freeSession slot u)
  have hfreed := hends.trans (freeSession_ends u slot)
  obtain ⟨hfree, hgeneration, -⟩ :=
    (hstart.keepsOthers (ended := fun _ => False) (cleared := fun _ => False)).sessions slot id
  refine ⟨_, hexec, hfree.trans (freeSession_free u slot).1,
    hgeneration.trans ((hfreed.generation slot).trans (by rw [hw]; rfl)), ?_, ?_, ?_, ?_, ?_, ?_⟩
  · rw [hports, hresp, hw]
    rfl
  · rw [hports, hnone]
  · exact Edits.keeps Edit.flag_stays (startRelocation_edits _) hflag
  · rw [← hw]
    exact hfreed.others.trans hstart.keepsOthers
  · rw [hstart.groups]
    exact hgroups.trans (by rw [hw])
  · have hpages := hfreed.pages.trans (startRelocation_samePages (freeSession slot u))
    rw [hw] at hpages
    exact hpages

end Sys2Proof.Machine
end

-- ==== What an apply leaves in the map ====
section
/-! PROOFS. The switch and offer phases of an apply, page by page: the entry a page maps after them, the relocation list, and
the switch of a relocating page written out (R102 to R105). -/

namespace Sys2Proof.Machine

/-! ### The relocation list -/

theorem takeClaim_relocations {s t : State} {slot : Slot} {page : LP} {write : PendingWrite} {origin : Origin}
    (h : takeClaim slot page write origin s = some t) : t.relocations = s.relocations := by
  rw [takeClaim_eq] at h
  split at h
  · cases h
  · cases h
    split <;> rfl

theorem offerDown_relocations (s : State) (page : LP) (n : Nat) : (offerDown page n s).relocations = s.relocations := by
  induction n generalizing s with
  | zero => rfl
  | succ n ih =>
    rw [offerDown]
    split
    · rfl
    · split
      · next h => exact (takeClaim_relocations h).trans rfl
      · refine (ih _).trans ?_
        simp only [noticeToOwner]
        split
        · rfl
        · simp [endWait, modifySession]

/-- The notices to a page's watchers change ports alone. -/
theorem notifyWatchers_books (s : State) (page : LP) (handle : Handle) :
    (notifyWatchers page handle s).relocations = s.relocations ∧ (notifyWatchers page handle s).jobs = s.jobs ∧
      (notifyWatchers page handle s).frames = s.frames ∧ (notifyWatchers page handle s).pool = s.pool ∧
      (notifyWatchers page handle s).log = s.log ∧ (notifyWatchers page handle s).nextSeq = s.nextSeq :=
  ⟨foldl_keeps State.relocations _ (fun t p => by split <;> simp) _ _,
   foldl_keeps State.jobs _ (fun t p => by split <;> simp) _ _,
   foldl_keeps State.frames _ (fun t p => by split <;> simp) _ _,
   foldl_keeps State.pool _ (fun t p => by split <;> simp) _ _,
   foldl_keeps State.log _ (fun t p => by split <;> simp) _ _,
   foldl_keeps State.nextSeq _ (fun t p => by split <;> simp) _ _⟩

theorem offerApplied_relocations (s : State) (handle : Handle) (e : ShadowEntry) :
    (offerApplied handle e s).relocations = s.relocations :=
  (notifyWatchers_books ..).1.trans (offerDown_relocations ..)

/-- A page leaves the relocation list, unless its relocation runs. -/
theorem clearRelocation_relocations (s : State) (page : LP) : (clearRelocation page s).relocations =
    if (s.entry page).relocating then s.relocations else s.relocations.filter (· ≠ page) := by
  simp only [clearRelocation]
  split
  · exact (abandonRelocation_books s page).2.2.1
  · rfl

theorem switchEntry_relocations (s : State) (e : ShadowEntry) : (switchEntry e s).relocations =
    if (s.entry e.page).relocating then s.relocations else s.relocations.filter (· ≠ e.page) := by
  rw [switchEntry_eq, ← clearRelocation_relocations]
  simp

/-- A start of relocation only takes a page off the list. -/
theorem startRelocation_relocations {s : State} {page : LP} (h : page ∉ s.relocations) :
    page ∉ (startRelocation s).relocations := by
  cases hd : relocationDue s with
  | none => rwa [startRelocation_of_none hd]
  | some due =>
    cases hp : s.pool with
    | nil => rwa [startRelocation_of_empty hp]
    | cons target rest =>
      rw [startRelocation_eq hd hp]
      exact fun hm => h (List.mem_of_mem_tail hm)

/-! ### The entries -/

theorem clearRelocation_samePages (s : State) (page : LP) : s.SamePages (clearRelocation page s) := by
  simp only [clearRelocation]
  split
  · exact abandonRelocation_samePages s page
  · exact .of_map rfl

/-- A switched page maps its shadow frame, NORMAL, at the stepped version (R102). -/
theorem switchEntry_entry (s : State) (e : ShadowEntry) :
    (switchEntry e s).entry e.page =
      { frame := e.frame, version := nextVersion (s.entry e.page).version, condition := .normal, claim := none,
        relocating := false } := by
  rw [switchEntry_eq, (releaseFrame_frame ..).2.2.1, (mapFrame_frame ..).2.2.1, State.setEntry_entry_self,
    (clearRelocation_samePages s e.page e.page).2.1]

section
variable (s : State) {l : List ShadowEntry}

theorem switchEntries_entry_of_ne {page : LP} (h : ∀ e ∈ l, e.page ≠ page) :
    (l.foldl (fun t e => switchEntry e t) s).entry page = s.entry page := by
  induction l generalizing s with
  | nil => rfl
  | cons e l ih =>
    rw [List.foldl_cons, ih _ fun x hx => h x (List.mem_cons_of_mem _ hx)]
    exact (switchEntry_books s e).2.2.2 page (h e (List.mem_cons_self ..)).symm

/-- After the switches of distinct pages each maps its shadow frame. -/
theorem switchEntries_entry (hn : (l.map ShadowEntry.page).Nodup) {e : ShadowEntry} (he : e ∈ l) :
    (l.foldl (fun t e => switchEntry e t) s).entry e.page =
      { frame := e.frame, version := nextVersion (s.entry e.page).version, condition := .normal, claim := none,
        relocating := false } := by
  induction l generalizing s with
  | nil => cases he
  | cons x l ih =>
    obtain ⟨hx, hn⟩ := List.nodup_cons.mp hn
    have hne : ∀ y ∈ l, y.page ≠ x.page := fun y hy hp => hx (hp ▸ List.mem_map_of_mem hy)
    rw [List.foldl_cons]
    rcases List.mem_cons.mp he with rfl | hmem
    · rw [switchEntries_entry_of_ne _ hne, switchEntry_entry]
    · rw [ih _ hn hmem, (switchEntry_books s x).2.2.2 e.page (hne e hmem)]

theorem switchEntries_relocations {page : LP} (h : page ∉ s.relocations) :
    page ∉ (l.foldl (fun t e => switchEntry e t) s).relocations := by
  induction l generalizing s with
  | nil => exact h
  | cons x l ih =>
    refine ih _ ?_
    rw [switchEntry_relocations]
    split
    · exact h
    · exact fun hm => h (List.mem_of_mem_filter hm)

/-- A switched page that was not relocating is on the relocation list no more (R103). -/
theorem switchEntries_unlists (hn : (l.map ShadowEntry.page).Nodup) {e : ShadowEntry} (he : e ∈ l)
    (hr : (s.entry e.page).relocating = false) :
    e.page ∉ (l.foldl (fun t e => switchEntry e t) s).relocations := by
  induction l generalizing s with
  | nil => cases he
  | cons x l ih =>
    obtain ⟨hx, hn⟩ := List.nodup_cons.mp hn
    rw [List.foldl_cons]
    rcases List.mem_cons.mp he with rfl | hmem
    · refine switchEntries_relocations _ ?_
      rw [switchEntry_relocations, if_neg (by simp [hr])]
      simp
    · refine ih _ hn hmem ?_
      rw [(switchEntry_books s x).2.2.2 e.page fun hp => hx (hp ▸ List.mem_map_of_mem hmem)]
      exact hr

end

/-- The offers of an apply leave each page's frame, version and condition, and the relocation list. -/
theorem offersApplied_leave (work : List (Handle × ShadowEntry)) (s : State) :
    s.SamePages (work.foldl (fun t w => offerApplied w.1 w.2 t) s) ∧
      (work.foldl (fun t w => offerApplied w.1 w.2 t) s).relocations = s.relocations :=
  ⟨State.SamePages.foldl (f := fun t (w : Handle × ShadowEntry) => offerApplied w.1 w.2 t)
     (fun t w => offerApplied_samePages t w.1 w.2) work s,
   foldl_keeps State.relocations (fun t (w : Handle × ShadowEntry) => offerApplied w.1 w.2 t)
     (fun t w => offerApplied_relocations t w.1 w.2) work s⟩

section
variable {s : State} {slot : Slot}

theorem applyPages_single : applyPages [slot] s =
    ((s.session slot).shadows.map fun e => (s.handle slot, e)).foldl (fun t w => offerApplied w.1 w.2 t)
      ((s.session slot).shadows.foldl (fun t e => switchEntry e t) s) := by
  rw [applyPages_eq, List.flatMap_singleton, List.flatMap_singleton]

/-- An applied page maps its shadow frame, NORMAL, at the stepped version. -/
theorem applyPages_page (hn : ((s.session slot).shadows.map ShadowEntry.page).Nodup) {e : ShadowEntry}
    (he : e ∈ (s.session slot).shadows) :
    ((applyPages [slot] s).entry e.page).frame = e.frame ∧
      ((applyPages [slot] s).entry e.page).condition = .normal ∧
      ((applyPages [slot] s).entry e.page).version = nextVersion (s.entry e.page).version := by
  obtain ⟨hf, hv, hc⟩ := (offersApplied_leave ((s.session slot).shadows.map fun e => (s.handle slot, e))
    ((s.session slot).shadows.foldl (fun t e => switchEntry e t) s)).1 e.page
  rw [switchEntries_entry s hn he] at hf hv hc
  rw [applyPages_single]
  exact ⟨hf, hc, hv⟩

theorem applyPages_other {page : LP} (h : ∀ e ∈ (s.session slot).shadows, e.page ≠ page) :
    ((applyPages [slot] s).entry page).frame = (s.entry page).frame ∧
      ((applyPages [slot] s).entry page).version = (s.entry page).version ∧
      ((applyPages [slot] s).entry page).condition = (s.entry page).condition := by
  have hoffers := (offersApplied_leave ((s.session slot).shadows.map fun e => (s.handle slot, e))
    ((s.session slot).shadows.foldl (fun t e => switchEntry e t) s)).1 page
  rw [switchEntries_entry_of_ne s h] at hoffers
  rwa [applyPages_single]

theorem applyPages_unlists (hn : ((s.session slot).shadows.map ShadowEntry.page).Nodup) {e : ShadowEntry}
    (he : e ∈ (s.session slot).shadows) (hr : (s.entry e.page).relocating = false) :
    e.page ∉ (applyPages [slot] s).relocations := by
  rw [applyPages_single, (offersApplied_leave ..).2]
  exact switchEntries_unlists s hn he hr

end

/-! ### The switch of a relocating page -/

/-- The state after the switch of a relocating page whose old frame had the relocation's pin at most: the relocation is
abandoned, the target and then the old frame are freed. -/
def State.entrySwitched (s : State) (e : ShadowEntry) (source target : PF) (jobs : List Job) : State :=
  { ((((s.abandoned source target e.page jobs).setEntry e.page
        { frame := e.frame, version := nextVersion (s.entry e.page).version, condition := .normal, claim := none,
          relocating := false }).setFrame e.frame
        { s.frame e.frame with state := .mapped, owner := some (.page e.page) }).setFrame source
        { s.frame source with state := .free, owner := none, pins := 0 }) with
    pool := s.pool ++ [target, source] }

section
variable {s : State} {e : ShadowEntry} {source target : PF}

theorem entrySwitched_entry (jobs : List Job) (page : LP) : (s.entrySwitched e source target jobs).entry page =
    if page = e.page then
      { frame := e.frame, version := nextVersion (s.entry e.page).version, condition := .normal, claim := none,
        relocating := false }
    else s.entry page := by
  refine (State.setEntry_entry _ e.page page _).trans ?_
  split
  · rfl
  · next h => exact (abandoned_entry s e.page source target jobs page).trans (if_neg h)

theorem entrySwitched_frame (jobs : List Job) (pf : PF) : (s.entrySwitched e source target jobs).frame pf =
    if pf = source then { s.frame source with state := .free, owner := none, pins := 0 }
    else if pf = e.frame then { s.frame e.frame with state := .mapped, owner := some (.page e.page) }
    else if pf = target then { s.frame target with state := .free, owner := none } else s.frame pf := by
  refine (State.setFrame_frame _ source pf _).trans ?_
  split
  · rfl
  · next hs =>
    refine (State.setFrame_frame _ e.frame pf _).trans ?_
    split
    · rfl
    · refine (abandoned_frame s e.page source target jobs pf).trans ?_
      rw [if_neg hs]

/-- The switch of a relocating page, its relocation abandoned first (R103, R104, R144). -/
theorem switchEntry_of_relocating {progress : Progress} {before after : List Job}
    (hrel : (s.entry e.page).relocating = true) (hframe : (s.entry e.page).frame = source)
    (hj : s.jobs = before ++ ⟨.relocate source, e.page, target, progress⟩ :: after)
    (hb : ∀ j ∈ before, j.isRelocate = false) (hs : (s.frame source).state = .mapped)
    (hpins : (s.frame source).pins ≤ 1) (hflag : (s.frame source).retireOnRelease = false)
    (ht : (s.frame target).state = .moving) (htpins : (s.frame target).pins = 0)
    (htflag : (s.frame target).retireOnRelease = false) (hshadow : (s.frame e.frame).state = .shadow) :
    switchEntry e s = s.entrySwitched e source target (before ++ after) := by
  have hst : source ≠ target := fun h => by
    rw [h, ht] at hs
    cases hs
  have hes : e.frame ≠ source := fun h => by
    rw [h, hs] at hshadow
    cases hshadow
  have het : e.frame ≠ target := fun h => by
    rw [h, ht] at hshadow
    cases hshadow
  obtain ⟨a, ha⟩ : ∃ a, a = s.abandoned source target e.page (before ++ after) := ⟨_, rfl⟩
  have hclear : clearRelocation e.page s = a := by
    rw [clearRelocation, if_pos hrel, ha]
    exact abandonRelocation_explicit hj hb hs ht htpins htflag
  have hentry : a.entry e.page = { s.entry e.page with relocating := false } := by
    rw [ha, abandoned_entry, if_pos rfl]
  have haframe : ∀ pf, a.frame pf = if pf = target then { s.frame target with state := .free, owner := none }
      else if pf = source then { s.frame source with pins := (s.frame source).pins - 1 } else s.frame pf := fun pf => by
    rw [ha, abandoned_frame]
  obtain ⟨b, hbdef⟩ : ∃ b, b = a.setEntry e.page
      { frame := e.frame, version := nextVersion (s.entry e.page).version, condition := .normal, claim := none,
        relocating := false } := ⟨_, rfl⟩
  have hbframe : ∀ pf, b.frame pf = a.frame pf := fun pf => by
    rw [hbdef]
    exact State.setEntry_frame ..
  have hbe : b.frame e.frame = s.frame e.frame := by rw [hbframe, haframe, if_neg het, if_neg hes]
  have hmap := mapFrame_of_shadow (s := b) (pf := e.frame) (.inl (by rw [hbe, hshadow])) e.page
  rw [hbe] at hmap
  obtain ⟨m, hm⟩ : ∃ m, m = b.setFrame e.frame { s.frame e.frame with state := .mapped, owner := some (.page e.page) } :=
    ⟨_, rfl⟩
  have hmsource : m.frame source = { s.frame source with pins := (s.frame source).pins - 1 } := by
    rw [hm, State.setFrame_frame_of_ne _ _ hes.symm, hbframe, haframe, if_neg hst, if_pos rfl]
  have hzero : (s.frame source).pins - 1 = 0 := by omega
  have hrelease := releaseFrame_frees (s := m) (pf := source) (by rw [hmsource, hs]; rfl) (by rw [hmsource, hzero])
    (by rw [hmsource, hflag])
  rw [hmsource, hzero] at hrelease
  rw [switchEntry_eq, hclear, hentry, hframe, ← hbdef, hmap, ← hm, hrelease, hm, hbdef, ha]
  simp only [State.entrySwitched, State.abandoned, State.setFrame_pool, State.setEntry_pool, List.append_assoc, List.cons_append,
    List.nil_append]

end

end Sys2Proof.Machine
end

-- ==== The COMMIT of an ungrouped session ====
section
/-! PROOFS. COMMIT whose guards hold: the apply, the session's end, the answer, and what follows the event (R98, R107). -/

namespace Sys2Proof.Machine

section
variable {s : State} {p : PortId} {slot : Slot} {r : Request}

/-- No guard entry fails. -/
theorem guardFailure_none (h : ∀ g ∈ (s.session slot).guards, (s.entry g.page).version = g.version) :
    guardFailure s slot = none := by
  rw [guardFailure, List.find?_eq_none.mpr fun g hg => by simp [h g hg], Option.map_none]

/-- The end of an applied session whose request is answered next: the request names no session any more, and is answered
(R107). -/
theorem respond_endApplied (hport : (s.session slot).port = some p)
    (hserv : (s.port p).inService = some ⟨r, some slot, .atOnce⟩) (hop : isAbortOp r.op = false) (a : Answer) :
    respond p a (endApplied slot s) = freeSession slot (s.replied p r a) := by
  obtain ⟨u, hu⟩ : ∃ u, u = s.setPort p { s.port p with inService := some ⟨r, none, .atOnce⟩ } := ⟨_, rfl⟩
  have hend : endApplied slot s = freeSession slot u := by
    simp only [endApplied, hport, serviceNaming_of hserv rfl hop, setService, hserv, hu]
  have hself : (freeSession slot u).port p = { s.port p with inService := some ⟨r, none, .atOnce⟩ } := by
    rw [freeSession, modifySession, State.setSession_port, hu, State.setPort_port_self]
  rw [hend, respond_eq_replied (r := r) (session := none) (stage := .atOnce) (by rw [hself]), State.replied, hself, hu,
    State.replied]
  simp only [freeSession, modifySession, State.setSession, State.setPort, State.session, Vector.set_set]

/-- COMMIT of an ungrouped session whose guards hold. -/
theorem exec_commit_applies {tag : Byte} {handle : Handle} (hp : s.PortFree p) (howns : s.Owns p handle slot)
    (hopen : (s.session slot).state = .opened) (hidle : (s.session slot).activity = .idle)
    (hgroup : (s.session slot).group = none)
    (hguards : ∀ g ∈ (s.session slot).guards, (s.entry g.page).version = g.version) :
    exec (.commit p tag handle) s = .next (settleUpTo s.queued (startRelocation
      (respond p (.committed (s.session slot).shadows.length) (endApplied slot
        (applyPages [slot] (s.serving p ⟨tag, .commit handle⟩ (some slot) .atOnce)))))) := by
  refine congrArg Host.Outcome.next ((sendRequest_of_free hp rfl).trans (congrArg (settleUpTo s.queued) ?_))
  have hcheck : checkHandle p handle true (s.serving p ⟨tag, .commit handle⟩ none .atOnce) = .ok slot :=
    checkHandle_of_owns (s := s.serving p ⟨tag, .commit handle⟩ none .atOnce) howns fun _ => hopen
  have hservice : setService p (some slot) .atOnce (s.serving p ⟨tag, .commit handle⟩ none .atOnce) =
      s.serving p ⟨tag, .commit handle⟩ (some slot) .atOnce := by
    simp [setService, State.serving]
  have hnone : guardFailure (s.serving p ⟨tag, .commit handle⟩ (some slot) .atOnce) slot = none :=
    guardFailure_none hguards
  simp only [serve, serveCommit, hcheck, State.serving_session, hidle, hgroup, hservice, hnone, ne_eq, not_true_eq_false,
    if_false]

theorem serving_keepsOthers (s : State) (p : PortId) (r : Request) (session : Option Slot) (stage : Stage)
    {ended : Slot → Prop} {cleared : PortId → Prop} : s.KeepsOthers (s.serving p r session stage) ended cleared :=
  { (State.Background.refl s).keepsOthers (ended := ended) (cleared := cleared) with
    ports := fun q _ => by
      rw [State.serving, State.setPort_port]
      split
      · next hq => exact hq ▸ ⟨rfl, rfl, rfl, rfl, rfl⟩
      · exact ⟨rfl, rfl, rfl, rfl, rfl⟩ }

/-- What the event of a COMMIT leaves after the answer: a relocation may have started. -/
def State.committed (s : State) (p : PortId) (r : Request) (slot : Slot) (n : Nat) : State :=
  startRelocation (freeSession slot (s.replied p r (.committed n)))

theorem replied_calm {session : Option Slot} {stage : Stage} (h : (s.port p).inService = some ⟨r, session, stage⟩)
    (a : Answer) : s.Calm (s.replied p r a) := by
  rw [← respond_eq_replied h]
  exact respond_calm ..

theorem committed_port (s : State) (p : PortId) (r : Request) (slot : Slot) (n : Nat) (q : PortId) :
    (s.committed p r slot n).port q = (s.replied p r (.committed n)).port q :=
  (startRelocation_port ..).trans (State.setSession_port ..)

/-- The answer to a COMMIT ends its session and no other. -/
theorem committed_ends {session : Option Slot} {stage : Stage} (h : (s.port p).inService = some ⟨r, session, stage⟩)
    (n : Nat) : s.Ends (s.committed p r slot n) (· = slot) :=
  ((replied_calm h _).ends.trans (freeSession_ends _ slot)).trans
    ((startRelocation_background _).calm (startRelocation_samePages _)).ends

theorem committed_free (s : State) (p : PortId) (r : Request) (slot : Slot) (n : Nat) :
    ((s.committed p r slot n).session slot).state = .free :=
  (((startRelocation_background _).keepsOthers (ended := fun _ => False) (cleared := fun _ => False)).sessions slot
    id).1.trans (freeSession_free _ slot).1

/-- With no page listed for relocation the answer to a COMMIT changes ports and the session alone. -/
theorem committed_of_unlisted (h : s.relocations = []) (n : Nat) :
    s.committed p r slot n = freeSession slot (s.replied p r (.committed n)) :=
  startRelocation_of_none (relocationDue_nil h)

/-- The state after the apply of a session whose COMMIT is in service, the request still to be answered. -/
def State.commitApplied (s : State) (p : PortId) (r : Request) (slot : Slot) : State :=
  applyPages [slot] (s.serving p r (some slot) .atOnce)

theorem commitApplied_background (s : State) (p : PortId) (r : Request) (slot : Slot) :
    (s.serving p r (some slot) .atOnce).Background (s.commitApplied p r slot) := applyPages_background ..

/-- The port of a COMMIT after its apply: the COMMIT still in service, the responses as they were. -/
theorem commitApplied_port (s : State) (p : PortId) (r : Request) (slot : Slot) :
    ((s.commitApplied p r slot).port p).inService = some ⟨r, some slot, .atOnce⟩ ∧
      ((s.commitApplied p r slot).port p).responses = (s.port p).responses ∧
      ((s.commitApplied p r slot).port p).requests = (s.port p).requests := by
  have htold := (commitApplied_background s p r slot).ports p
  rw [htold.inService, htold.responses, htold.requests, State.serving, State.setPort_port_self]
  exact ⟨rfl, rfl, rfl⟩

/-- COMMIT of an ungrouped session whose guards hold, to the end of its event. -/
theorem exec_commit {tag : Byte} {handle : Handle} (hp : s.PortFree p) (howns : s.Owns p handle slot)
    (hopen : (s.session slot).state = .opened) (hidle : (s.session slot).activity = .idle)
    (hgroup : (s.session slot).group = none)
    (hguards : ∀ g ∈ (s.session slot).guards, (s.entry g.page).version = g.version) :
    exec (.commit p tag handle) s = .next ((s.commitApplied p ⟨tag, .commit handle⟩ slot).committed p
      ⟨tag, .commit handle⟩ slot (s.session slot).shadows.length) := by
  obtain ⟨hserv, -, hrequests⟩ := commitApplied_port s p ⟨tag, .commit handle⟩ slot
  have hback := commitApplied_background s p ⟨tag, .commit handle⟩ slot
  have hport : ((s.commitApplied p ⟨tag, .commit handle⟩ slot).session slot).port = some p :=
    ((hback.keepsOthers (ended := fun _ => False) (cleared := fun _ => False)).sessions slot id).2.2.1.trans howns.2
  have hlaw : ((s.commitApplied p ⟨tag, .commit handle⟩ slot).committed p ⟨tag, .commit handle⟩ slot
      (s.session slot).shadows.length).QueueLaw := fun q => by
    rw [committed_port]
    exact replied_queueLaw (hback.queueLaw (serving_queueLaw hp _ _ _)) (hrequests.trans hp.queue) _ q
  rw [exec_commit_applies hp howns hopen hidle hgroup hguards, ← State.commitApplied,
    respond_endApplied hport hserv rfl, ← State.committed, settleUpTo_of_queueLaw hlaw]

/-! ### A single page that relocates -/

theorem offerClaim_of_no_waiter {page : LP} (h : ∀ w ∈ s.waits, w.page ≠ page) : offerClaim page s = s := by
  have hnone : oldestWaiter page s = none := by
    rw [oldestWaiter, List.find?_eq_none.mpr fun w hw => by simpa using h w hw, Option.map_none]
  rw [offerClaim]
  cases s.waits.length with
  | zero => rfl
  | succ n => simp only [offerDown, hnone]

/-- The apply of a single page that no write waits for tells its watchers after the switch. -/
theorem applyPages_one {e : ShadowEntry} (h : (s.session slot).shadows = [e]) (hw : ∀ w ∈ s.waits, w.page ≠ e.page) :
    applyPages [slot] s = notifyWatchers e.page (s.handle slot) (switchEntry e s) := by
  have hwaits : ∀ w ∈ (switchEntry e s).waits, w.page ≠ e.page := by
    rw [(switchEntry_books s e).2.1]
    exact hw
  rw [applyPages_single, h, List.map_singleton, List.foldl_cons, List.foldl_nil, List.foldl_cons, List.foldl_nil,
    offerApplied, offerClaim_of_no_waiter hwaits]

/-- The end of a COMMIT whose single page relocated is that of the page's switch, its watchers told. -/
theorem committed_of_relocating {e : ShadowEntry} {target : PF} {progress : Progress} {before after : List Job}
    (hone : (s.session slot).shadows = [e]) (hrel : (s.entry e.page).relocating = true)
    (hj : s.jobs = before ++ ⟨.relocate (s.entry e.page).frame, e.page, target, progress⟩ :: after)
    (hb : ∀ j ∈ before, j.isRelocate = false) (hs : (s.frame (s.entry e.page).frame).state = .mapped)
    (hpins : (s.frame (s.entry e.page).frame).pins ≤ 1)
    (hflag : (s.frame (s.entry e.page).frame).retireOnRelease = false) (ht : (s.frame target).state = .moving)
    (htpins : (s.frame target).pins = 0) (htflag : (s.frame target).retireOnRelease = false)
    (hshadow : (s.frame e.frame).state = .shadow) (hwaits : ∀ w ∈ s.waits, w.page ≠ e.page) (hlist : s.relocations = [])
    {t : State} {n : Nat} (h : t = (s.commitApplied p r slot).committed p r slot n) :
    t.jobs = before ++ after ∧
      (∀ page, t.entry page = (s.entrySwitched e (s.entry e.page).frame target (before ++ after)).entry page) ∧
      (∀ pf, t.frame pf = (s.entrySwitched e (s.entry e.page).frame target (before ++ after)).frame pf) ∧
      t.pool = s.pool ++ [target, (s.entry e.page).frame] ∧ t.log = s.log ∧ t.nextSeq = s.nextSeq := by
  obtain ⟨w, hw⟩ : ∃ w, w = s.serving p r (some slot) .atOnce := ⟨_, rfl⟩
  obtain ⟨v, hv⟩ : ∃ v, v = w.entrySwitched e (s.entry e.page).frame target (before ++ after) := ⟨_, rfl⟩
  obtain ⟨u, hu⟩ : ∃ u, u = notifyWatchers e.page (w.handle slot) v := ⟨_, rfl⟩
  have hswitch : switchEntry e w = v := by
    subst hw hv
    exact switchEntry_of_relocating (s := s.serving p r (some slot) .atOnce) hrel rfl hj hb hs hpins hflag ht htpins htflag
      hshadow
  have happly : s.commitApplied p r slot = u := by
    subst hw
    rw [State.commitApplied, applyPages_one (s := s.serving p r (some slot) .atOnce) hone hwaits, hswitch, hu]
  obtain ⟨hrelocations, hjobs, hframes, hpool, hlog, hseq⟩ := notifyWatchers_books v e.page (w.handle slot)
  have hmap := notifyWatchers_map v e.page (w.handle slot)
  rw [← hu] at hrelocations hjobs hframes hpool hlog hseq hmap
  have hunlisted : u.relocations = [] := by
    rw [hrelocations, hv, hw]
    exact hlist
  rw [happly, committed_of_unlisted hunlisted] at h
  have hentry : ∀ page, t.entry page = v.entry page := fun page => by
    rw [h]
    exact congrArg (fun m : Vector MapEntry 256 => m[page]) hmap
  have hframe : ∀ pf, t.frame pf = v.frame pf := fun pf => by
    rw [h]
    exact congrArg (fun f : Vector FrameRec 512 => f[pf]) hframes
  refine ⟨?_, fun page => ?_, fun pf => ?_, ?_, ?_, ?_⟩
  · rw [h]
    exact hjobs.trans (hv ▸ rfl)
  · rw [hentry, hv, hw]
    rfl
  · rw [hframe, hv, hw]
    rfl
  · rw [h]
    exact hpool.trans (by rw [hv, hw]; rfl)
  · rw [h]
    exact hlog.trans (by rw [hv, hw]; rfl)
  · rw [h]
    exact hseq.trans (by rw [hv, hw]; rfl)

end

/-- Settles O31: the apply of the session's pages, its end and its answer; then a single page that relocates, written out. -/
theorem commitAppliesSession : Obligations.CommitAppliesSession := by
  intro p tag handle slot s hp howns hopen hidle hgroup hguards hnodup
  obtain ⟨r, hr⟩ : ∃ r : Request, r = ⟨tag, .commit handle⟩ := ⟨_, rfl⟩
  obtain ⟨n, hn⟩ : ∃ n, n = (s.session slot).shadows.length := ⟨_, rfl⟩
  have hexec := exec_commit (tag := tag) hp howns hopen hidle hgroup hguards
  rw [← hr, ← hn] at hexec
  have hback := commitApplied_background s p r slot
  obtain ⟨hserv, hresp, -⟩ := commitApplied_port s p r slot
  have hends := committed_ends (slot := slot) hserv n
  have hpages := hends.pages
  have hport := committed_port (s.commitApplied p r slot) p r slot n p
  rw [replied_port, if_pos rfl] at hport
  have hkeeps : s.KeepsOthers ((s.commitApplied p r slot).committed p r slot n) (· = slot) (fun _ => False) :=
    (serving_keepsOthers s p r (some slot) .atOnce).trans (hback.keepsOthers.trans hends.others)
  refine ⟨_, hexec, fun e he => ?_, fun page hpage => ?_, committed_free .., ?_, ?_, ?_, hkeeps, ?_, fun e he hrel => ?_,
    fun e target progress before after hone hrel hj hb hs hpins hflag ht htpins htflag hshadow hwaits hlist => ?_⟩
  · obtain ⟨hf, hv, hc⟩ := hpages e.page
    obtain ⟨haf, hac, hav⟩ := applyPages_page (s := s.serving p r (some slot) .atOnce) hnodup he
    exact ⟨hf.trans haf, hc.trans hac, hv.trans hav⟩
  · obtain ⟨hf, hv, hc⟩ := hpages page
    obtain ⟨haf, hav, hac⟩ := applyPages_other (s := s.serving p r (some slot) .atOnce) (slot := slot) hpage
    exact ⟨hf.trans haf, hv.trans hav, hc.trans hac⟩
  · exact (hends.generation slot).trans
      ((hback.keepsOthers (ended := fun _ => False) (cleared := fun _ => False)).sessions slot id).2.1
  · rw [hport, hresp, hr, hn]
  · rw [hport]
  · have hstart := startRelocation_background
      (freeSession slot ((s.commitApplied p r slot).replied p r (.committed n)))
    exact hstart.groups.trans (hback.groups.trans rfl)
  · exact startRelocation_relocations (applyPages_unlists (s := s.serving p r (some slot) .atOnce) hnodup he hrel)
  · obtain ⟨hjobs, hentry, hframe, hpool, hlog, hseq⟩ := committed_of_relocating (p := p) (r := r) (n := n) hone hrel hj hb
      hs hpins hflag ht htpins htflag hshadow hwaits hlist rfl
    have hst : target ≠ (s.entry e.page).frame := fun h => by
      rw [h, hs] at ht
      cases ht
    have hes : e.frame ≠ (s.entry e.page).frame := fun h => by
      rw [h, hs] at hshadow
      cases hshadow
    have het : target ≠ e.frame := fun h => by
      rw [← h, ht] at hshadow
      cases hshadow
    refine ⟨hjobs, ?_, ?_, hpool, ?_, ?_, ?_, fun pf htarget hsource hshadow' => ?_, fun page hne => ?_, hlog, hseq⟩
    · rw [hentry, entrySwitched_entry, if_pos rfl]
    · rw [hentry, entrySwitched_entry, if_pos rfl]
    · rw [hframe, entrySwitched_frame, if_neg hst, if_neg het, if_pos rfl]
    · rw [hframe, entrySwitched_frame, if_pos rfl]
    · rw [hframe, entrySwitched_frame, if_neg hes, if_pos rfl]
    · rw [hframe, entrySwitched_frame, if_neg hsource, if_neg hshadow', if_neg htarget]
    · rw [hentry, entrySwitched_entry, if_neg hne]

end Sys2Proof.Machine
end

-- ==== What an edit does to the frames and the pool ====
section
/-! PROOFS. An edit changes at most one frame record: it marks the frame in its place, frees it at the pool tail or allocates
the pool head. What every edit keeps, every command but the device reset keeps. -/

namespace Sys2Proof.Machine

/-! ### From edits to commands -/

section
variable {Inv : State → Prop} {s t : State}

/-- What every edit and the two ends of the sweep keep, every command but the device reset keeps. -/
theorem exec_keeps (hedit : ∀ s t, Edit s t → Inv s → Inv t)
    (hsweep : ∀ s : State, Inv s → Inv { s with phase := .sweeping, store := [] })
    (hend : ∀ s, Inv s → Inv (sweepEnded s)) {c : Instr} (hc : c ≠ .deviceReset) (h : exec c s = .next t) (hs : Inv s) :
    Inv t := by
  by_cases hs1 : c = .initializationSweep
  · subst hs1
    cases h
    split
    · exact hsweep s hs
    · exact hs
    · exact hs
  · by_cases hs2 : c = .sweepEnd
    · subst hs2
      cases h
      split
      · exact hs
      · exact hend s hs
      · exact hs
    · obtain ⟨u, hu, hedits⟩ := exec_edits s c hc hs1 hs2
      rw [hu] at h
      cases h
      exact hedits.keeps hedit hs

/-- What every command but the device reset keeps, and a device reset brings about, every step keeps. -/
theorem step_keeps (hedit : ∀ s t, Edit s t → Inv s → Inv t)
    (hsweep : ∀ s : State, Inv s → Inv { s with phase := .sweeping, store := [] })
    (hend : ∀ s, Inv s → Inv (sweepEnded s)) (hreset : ∀ s, Inv s → Inv s.resetFrom)
    (hpending : ∀ (s : State) (rest : List Instr), Inv s → Inv { s with pending := rest }) (h : step s = .next t)
    (hs : Inv s) : Inv t := by
  simp only [step] at h
  split at h
  · cases h; exact hs
  · next c rest _ =>
    by_cases hc : c = .deviceReset
    · subst hc
      rw [exec_deviceReset] at h
      cases h
      exact hreset _ (hpending s rest hs)
    · exact exec_keeps hedit hsweep hend hc h (hpending s rest hs)

end

/-! ### Edits that reach ports alone -/

/-- The re-evaluation of the ATTN lines changes ports alone. -/
@[simp] theorem evalAllAttn_frame (s : State) : (evalAllAttn s).frames = s.frames ∧ (evalAllAttn s).pool = s.pool ∧
    (evalAllAttn s).relocations = s.relocations ∧ (evalAllAttn s).writeBacks = s.writeBacks ∧
    (evalAllAttn s).store = s.store ∧ (evalAllAttn s).lastGranted = s.lastGranted ∧
    (evalAllAttn s).cursor = s.cursor ∧ (evalAllAttn s).phase = s.phase ∧ (evalAllAttn s).pending = s.pending := by
  unfold evalAllAttn
  exact ⟨foldl_keeps State.frames _ (fun _ _ => by simp) _ _, foldl_keeps State.pool _ (fun _ _ => by simp) _ _,
    foldl_keeps State.relocations _ (fun _ _ => by simp) _ _, foldl_keeps State.writeBacks _ (fun _ _ => by simp) _ _,
    foldl_keeps State.store _ (fun _ _ => by simp) _ _, foldl_keeps State.lastGranted _ (fun _ _ => by simp) _ _,
    foldl_keeps State.cursor _ (fun _ _ => by simp) _ _, foldl_keeps State.phase _ (fun _ _ => by simp) _ _,
    foldl_keeps State.pending _ (fun _ _ => by simp) _ _⟩

/-- A completed FETCH changes its port alone. -/
@[simp] theorem completeFetch_frame (p : PortId) (s : State) : (completeFetch p s).frames = s.frames ∧
    (completeFetch p s).pool = s.pool ∧ (completeFetch p s).relocations = s.relocations ∧
    (completeFetch p s).writeBacks = s.writeBacks ∧ (completeFetch p s).store = s.store ∧
    (completeFetch p s).lastGranted = s.lastGranted ∧ (completeFetch p s).cursor = s.cursor ∧
    (completeFetch p s).phase = s.phase ∧ (completeFetch p s).pending = s.pending := by
  simp only [completeFetch]
  split <;> simp

/-! ### The frames -/

/-- What an edit does to the frames and the pool. -/
inductive FrameEdit (s t : State) : Prop
  /-- Frames and pool are as they were. -/
  | none (hf : t.frames = s.frames) (hp : t.pool = s.pool)
  /-- One record changes: it is FREE as before, older, and its count is not taken past 15. -/
  | mark (pf : PF) (f : FrameRec) (hf : t.frames = (s.setFrame pf f).frames) (hp : t.pool = s.pool)
      (hfree : f.state = .free ↔ (s.frame pf).state = .free) (hages : (s.frame pf).Ages f)
      (hcount : (s.frame pf).corrected ≤ 15 → f.corrected ≤ 15)
  /-- A frame that is neither FREE nor RETIRED enters FREE at the pool tail. -/
  | free (pf : PF) (h : t = freeFrame pf s) (hfree : (s.frame pf).state ≠ .free) (hlive : (s.frame pf).state ≠ .retired)
  /-- The frame at the pool head enters a use. -/
  | take (pf : PF) (rest : List PF) (state : FrameState) (owner : Option Owner) (hpool : s.pool = pf :: rest)
      (hf : t.frames = (s.setFrame pf { s.frame pf with state := state, owner := owner }).frames) (hp : t.pool = rest)
      (hstate : state ≠ .free)

theorem FrameRec.Ages.refl (f : FrameRec) : f.Ages f := ⟨id, id, Nat.le_refl _⟩

theorem FrameRec.Ages.trans {f g h : FrameRec} (hfg : f.Ages g) (hgh : g.Ages h) : f.Ages h :=
  ⟨hgh.1 ∘ hfg.1, hgh.2.1 ∘ hfg.2.1, hfg.2.2.trans hgh.2.2⟩

/-- A frame's state and pins change, flag and count stay. -/
theorem FrameRec.Ages.restate {f : FrameRec} {state : FrameState} {owner : Option Owner} {pins : Nat}
    (h : f.state = .retired → state = .retired) :
    f.Ages { f with state := state, owner := owner, pins := pins } := ⟨h, id, Nat.le_refl _⟩

theorem releasable_or_held {st : FrameState} (h : st.releasable = true ∨ st = .held) : st ≠ .free ∧ st ≠ .retired := by
  rcases h with h | h
  · cases st <;> simp_all [FrameState.releasable]
  · simp [h]

/-- Every edit is one of the four. -/
theorem Edit.frames {s t : State} (h : Edit s t) : FrameEdit s t := by
  cases h with
  | hold pf hr hp =>
    obtain ⟨hfree, hlive⟩ := releasable_or_held (.inl hr)
    exact .mark pf _ rfl rfl (by simp [hfree]) (.restate fun h => absurd h hlive) id
  | retire pf hr hp hf =>
    obtain ⟨hfree, hlive⟩ := releasable_or_held hr
    exact .mark pf _ rfl rfl (by simp [hfree]) (.restate fun _ => rfl) id
  | free pf hr hp hf =>
    obtain ⟨hfree, hlive⟩ := releasable_or_held hr
    exact .free pf rfl hfree hlive
  | map pf page hm =>
    exact .mark pf _ rfl rfl (by rcases hm with hm | hm <;> simp [hm])
      (.restate fun h => by rcases hm with hm | hm <;> simp [hm] at h) id
  | pin pf => exact .mark pf _ rfl rfl Iff.rfl (.restate id) id
  | unpin pf => exact .mark pf _ rfl rfl Iff.rfl (.restate id) id
  | allocate _ state owner pf hs ha =>
    simp only [Machine.allocate] at ha
    split at ha
    · cases ha
    · next rest hpool =>
      cases ha
      exact .take pf rest state (some owner) hpool rfl rfl (by rcases hs with rfl | rfl <;> nofun)
  | flag pf => exact .mark pf _ rfl rfl Iff.rfl ⟨id, fun _ => rfl, Nat.le_refl _⟩ id
  | count pf =>
    refine .mark pf _ rfl rfl Iff.rfl ⟨id, fun h => by simp [h], ?_⟩ fun h => ?_
    · simp only
      split <;> omega
    · by_cases hlt : (s.frame pf).corrected < Config.correctedMax
      · exact (if_pos hlt).trans_le hlt
      · simpa only [if_neg hlt] using h
  | configure record timer hr hf => exact .none (evalAllAttn_frame _).1 (evalAllAttn_frame _).2.1
  | notice p body => exact .none (by simp) (by simp)
  | respond p a => exact .none (by simp) (by simp)
  | service p session stage => exact .none (by simp) (by simp)
  | discard p cause => exact .none (by simp) (by simp)
  | fetch p => exact .none (by simp) (by simp)
  | _ => exact .none rfl rfl

theorem FrameEdit.frame_of_frames {s t : State} {pf : PF} {f : FrameRec} (h : t.frames = (s.setFrame pf f).frames)
    (q : PF) : t.frame q = if q = pf then f else s.frame q := by
  rw [← State.setFrame_frame]
  simp only [State.frame, h]

/-- Every edit keeps the pool. -/
theorem FrameEdit.poolLaw {s t : State} (h : FrameEdit s t) (hs : s.PoolLaw) : t.PoolLaw := by
  obtain ⟨hnodup, hmem⟩ := hs
  cases h with
  | none hf hp =>
    refine ⟨hp ▸ hnodup, fun q => ?_⟩
    simp only [State.frame, hf, hp]
    exact hmem q
  | mark pf f hf hp hfree =>
    refine ⟨hp ▸ hnodup, fun q => ?_⟩
    rw [frame_of_frames hf, hp, hmem]
    split
    · next hq => rw [hq, hfree]
    · rfl
  | free pf h hfree =>
    have hnew : pf ∉ s.pool := fun hin => hfree ((hmem pf).mp hin)
    have hp : t.pool = s.pool ++ [pf] := by rw [h]; rfl
    have hf : t.frames = (s.setFrame pf { s.frame pf with state := .free, owner := .none }).frames := by rw [h]; rfl
    refine ⟨?_, fun q => ?_⟩
    · rw [hp]
      exact List.nodup_append.mpr ⟨hnodup, List.nodup_singleton pf, fun a ha b hb => by
        rw [List.mem_singleton.mp hb]
        rintro rfl
        exact hnew ha⟩
    · rw [frame_of_frames hf, hp, List.mem_append, List.mem_singleton, hmem]
      split
      · next hq => simp [hq]
      · next hq => simp [hq]
  | take pf rest state owner hpool hf hp hstate =>
    rw [hpool] at hnodup hmem
    obtain ⟨hnew, hrest⟩ := List.nodup_cons.mp hnodup
    refine ⟨hp ▸ hrest, fun q => ?_⟩
    rw [frame_of_frames hf, hp]
    split
    · next hq => simp [hq, hnew, hstate]
    · next hq => rw [← hmem, List.mem_cons, or_iff_right hq]

/-- No edit renews a frame, where the pool holds the FREE frames. -/
theorem FrameEdit.ages {s t : State} (h : FrameEdit s t) (hs : s.PoolLaw) (q : PF) : (s.frame q).Ages (t.frame q) := by
  have hset : ∀ {pf : PF} {f : FrameRec}, t.frames = (s.setFrame pf f).frames → (s.frame pf).Ages f →
      (s.frame q).Ages (t.frame q) := fun hf hages => by
    rw [frame_of_frames hf]
    split
    · next hq => exact hq ▸ hages
    · exact .refl _
  cases h with
  | none hf hp =>
    simp only [State.frame, hf]
    exact .refl _
  | mark pf f hf hp hfree hages => exact hset hf hages
  | free pf h hfree hlive => exact hset (by rw [h]; rfl) (.restate fun hr => absurd hr hlive)
  | take pf rest state owner hpool hf hp hstate =>
    have hfree : (s.frame pf).state = .free := (hs.2 pf).mp (by simp [hpool])
    exact hset hf (.restate fun hr => by simp [hfree] at hr)

/-- No edit takes a corrected count past 15. -/
theorem FrameEdit.countLaw {s t : State} (h : FrameEdit s t) (hs : s.CountLaw) : t.CountLaw := fun q => by
  have hset : ∀ {pf : PF} {f : FrameRec}, t.frames = (s.setFrame pf f).frames → f.corrected ≤ 15 →
      (t.frame q).corrected ≤ 15 := fun hf hcount => by
    rw [frame_of_frames hf]
    split
    · exact hcount
    · exact hs q
  cases h with
  | none hf hp =>
    simp only [State.frame, hf]
    exact hs q
  | mark pf f hf hp hfree hages hcount => exact hset hf (hcount (hs pf))
  | free pf h hfree hlive =>
    exact hset (f := { s.frame pf with state := .free, owner := .none }) (by rw [h]; rfl) (hs pf)
  | take pf rest state owner hpool hf hp hstate => exact hset hf (hs pf)

/-- Settles O53: every edit keeps the pool law, and a device reset brings it about. -/
theorem stepKeepsPool : Obligations.StepKeepsPool := fun _ _ hs hstep =>
  step_keeps (Inv := State.PoolLaw) (fun _ _ he => he.frames.poolLaw) (fun _ => id) (fun _ => id)
    (fun _ _ => reset_poolLaw) (fun _ _ => id) hstep hs

/-- Settles O58: no edit renews a frame, from a state with the pool law, which every edit keeps. -/
theorem onlyDeviceResetRenewsFrames : Obligations.OnlyDeviceResetRenewsFrames := fun _ s _ hs hc hexec pf =>
  (exec_keeps (Inv := fun u => u.PoolLaw ∧ (s.frame pf).Ages (u.frame pf))
    (fun _ _ he ⟨hpool, hages⟩ => ⟨he.frames.poolLaw hpool, hages.trans (he.frames.ages hpool pf)⟩) (fun _ => id)
    (fun _ => id) hc hexec ⟨hs, .refl _⟩).2

end Sys2Proof.Machine
end

-- ==== The bounds of lists and counts ====
section
/-! PROOFS. What an edit does to the queues of the ports, the relocation list, the write-back list and the store. -/

namespace Sys2Proof.Machine

/-! ### The queues of a port -/

/-- A change of a port's record that keeps the bounds of its notices and its watches (R146, R150). -/
structure PortRec.KeepsBounds (r r' : PortRec) : Prop where
  notices : r.notices.length ≤ 8 → r'.notices.length ≤ 8
  watches : r.watches.Nodup ∧ r.watches.length ≤ 16 → r'.watches.Nodup ∧ r'.watches.length ≤ 16

theorem PortRec.KeepsBounds.of_same {r r' : PortRec} (hn : r'.notices = r.notices) (hw : r'.watches = r.watches) :
    r.KeepsBounds r' := ⟨fun h => hn ▸ h, fun h => hw ▸ h⟩

section
variable {s t : State}

theorem setPort_keepsBounds {p : PortId} {r : PortRec} (h : (s.port p).KeepsBounds r) (q : PortId) :
    (s.port q).KeepsBounds ((s.setPort p r).port q) := by
  rw [State.setPort_port]
  split
  · next hq => exact hq ▸ h
  · exact .of_same rfl rfl

theorem setPort_sameBounds {p : PortId} {r : PortRec} (q : PortId) (hn : r.notices = (s.port p).notices := by rfl)
    (hw : r.watches = (s.port p).watches := by rfl) : (s.port q).KeepsBounds ((s.setPort p r).port q) :=
  setPort_keepsBounds (.of_same hn hw) q

theorem queueNotice_keepsBounds (p : PortId) (body : NoticeBody) (q : PortId) :
    (s.port q).KeepsBounds ((queueNotice p body s).port q) := by
  simp only [queueNotice]
  split
  · next hlt =>
    refine setPort_keepsBounds ?_ q
    refine ⟨fun _ => ?_, id⟩
    exact List.length_append.trans_le hlt
  · exact setPort_sameBounds q

/-- The re-evaluation of the ATTN lines leaves every queue. -/
theorem evalAllAttn_queues (s : State) (q : PortId) : ((evalAllAttn s).port q).notices = (s.port q).notices ∧
    ((evalAllAttn s).port q).watches = (s.port q).watches := by
  unfold evalAllAttn
  constructor
  · refine foldl_keeps (fun t : State => (t.port q).notices) _ (fun t p => ?_) _ _
    rw [State.setPort_port]
    split
    · next h => rw [h]; rfl
    · rfl
  · refine foldl_keeps (fun t : State => (t.port q).watches) _ (fun t p => ?_) _ _
    rw [State.setPort_port]
    split
    · next h => rw [h]; rfl
    · rfl

/-- Every edit keeps the bounds of every port's queues. -/
theorem Edit.keepsBounds (h : Edit s t) (q : PortId) : (s.port q).KeepsBounds (t.port q) := by
  cases h with
  | notice p body => exact queueNotice_keepsBounds p body q
  | respond p a =>
    simp only [Machine.respond]
    split
    · exact .of_same rfl rfl
    · exact setPort_sameBounds q
  | service p session stage =>
    simp only [setService]
    split
    · exact .of_same rfl rfl
    · exact setPort_sameBounds q
  | discard p cause => exact setPort_sameBounds q
  | take p r rest hq hn => exact setPort_sameBounds q
  | accept p r hc => exact setPort_sameBounds q
  | fetch p =>
    simp only [completeFetch]
    split
    · exact .of_same rfl rfl
    · exact setPort_sameBounds q
  | note p =>
    refine setPort_keepsBounds ?_ q
    refine ⟨fun h => ?_, id⟩
    simp only [PortRec.evalAttn, List.length_tail]
    omega
  | pstat p => exact setPort_sameBounds q
  | wire p w out => exact setPort_sameBounds q
  | watch p page hw hl =>
    refine setPort_keepsBounds ?_ q
    refine ⟨id, fun ⟨hnodup, _⟩ => ⟨?_, ?_⟩⟩
    · exact List.nodup_append.mpr ⟨hnodup, List.nodup_singleton page, fun a ha b hb => by
        rw [List.mem_singleton.mp hb]
        rintro rfl
        exact hw ha⟩
    · exact List.length_append.trans_le hl
  | unwatch p page =>
    refine setPort_keepsBounds ?_ q
    exact ⟨id, fun ⟨hnodup, hlen⟩ => ⟨hnodup.erase page, List.length_erase_le.trans hlen⟩⟩
  | clear p => exact setPort_keepsBounds ⟨fun _ => Nat.zero_le _, fun _ => ⟨List.nodup_nil, Nat.zero_le _⟩⟩ q
  | configure record timer hr hf => exact .of_same (evalAllAttn_queues _ q).1 (evalAllAttn_queues _ q).2
  | allocate _ state owner pf hs ha =>
    simp only [Machine.allocate] at ha
    split at ha
    · cases ha
    · cases ha
      exact .of_same rfl rfl
  | _ => exact .of_same rfl rfl

theorem Edit.noticeLaw (h : Edit s t) (hs : s.NoticeLaw) : t.NoticeLaw := fun q => (h.keepsBounds q).notices (hs q)

theorem Edit.watchLaw (h : Edit s t) (hs : s.WatchLaw) : t.WatchLaw := fun q => (h.keepsBounds q).watches (hs q)

/-! ### The Check Unit's lists and the store -/

/-- Every edit keeps the relocation list and the write-back list within their bounds (R128, R140). -/
theorem Edit.listLaw (h : Edit s t) (hs : s.ListLaw) : t.ListLaw := by
  obtain ⟨hnodup, hlen, hback⟩ := hs
  have hsame : ∀ {u : State}, u.relocations = s.relocations → u.writeBacks = s.writeBacks → u.ListLaw := fun hr hw => by
    simp only [State.ListLaw, hr, hw]
    exact ⟨hnodup, hlen, hback⟩
  cases h with
  | unlist l hl => exact ⟨hnodup.sublist hl, hl.length_le.trans hlen, hback⟩
  | list page hp hl =>
    refine ⟨?_, List.length_append.trans_le hl, hback⟩
    exact List.nodup_append.mpr ⟨hnodup, List.nodup_singleton page, fun a ha b hb => by
      rw [List.mem_singleton.mp hb]
      rintro rfl
      exact hp ha⟩
  | dropWriteBacks l hl => exact ⟨hnodup, hlen, hl.length_le.trans hback⟩
  | queueWriteBack b hl => exact ⟨hnodup, hlen, List.length_append.trans_le hl⟩
  | allocate _ state owner pf hst ha =>
    simp only [Machine.allocate] at ha
    split at ha
    · cases ha
    · cases ha
      exact ⟨hnodup, hlen, hback⟩
  | configure record timer hr hf => exact hsame (by simp) (by simp)
  | notice p body => exact hsame (by simp) (by simp)
  | respond p a => exact hsame (by simp) (by simp)
  | service p session stage => exact hsame (by simp) (by simp)
  | discard p cause => exact hsame (by simp) (by simp)
  | fetch p => exact hsame (by simp) (by simp)
  | _ => exact ⟨hnodup, hlen, hback⟩

/-- Every edit keeps the store in its one form: a word is written or disturbed inside the array. -/
theorem Edit.storeLaw (h : Edit s t) (hs : s.StoreLaw) : t.StoreLaw := by
  have hsame : ∀ {u : State}, u.store = s.store → u.StoreLaw := fun hu => by
    simp only [State.StoreLaw, hu]
    exact hs
  cases h with
  | write pf k data => exact storeWf_writeWord hs pf k data
  | disturb pf k flips => exact storeWf_disturbWord hs pf k flips
  | allocate _ state owner pf hst ha =>
    simp only [Machine.allocate] at ha
    split at ha
    · cases ha
    · cases ha
      exact hs
  | configure record timer hr hf => exact hsame (by simp)
  | notice p body => exact hsame (by simp)
  | respond p a => exact hsame (by simp)
  | service p session stage => exact hsame (by simp)
  | discard p cause => exact hsame (by simp)
  | fetch p => exact hsame (by simp)
  | _ => exact hs

end

/-! ### The two ends of the sweep and the device reset -/

/-- The end of the sweep leaves every port's queues. -/
theorem sweepEnded_port (s : State) (q : PortId) : (sweepEnded s).port q = { s.port q with ready := true } :=
  Vector.getElem_map ..

theorem resetFrom_queues (s : State) (q : PortId) : (s.resetFrom.port q).notices = [] ∧ (s.resetFrom.port q).watches = [] := by
  rw [resetFrom_port]
  exact ⟨rfl, rfl⟩

/-- Settles O56: each bound is kept edit by edit, by the two ends of the sweep and by a device reset. -/
theorem stepKeepsBounds : Obligations.StepKeepsBounds := by
  intro s t hstep
  refine ⟨step_keeps (fun _ _ => Edit.noticeLaw) (fun _ => id) (fun u hu q => ?_) (fun u _ q => ?_) (fun _ _ => id) hstep,
    step_keeps (fun _ _ => Edit.watchLaw) (fun _ => id) (fun u hu q => ?_) (fun u _ q => ?_) (fun _ _ => id) hstep,
    step_keeps (fun _ _ => Edit.listLaw) (fun _ => id) (fun _ => id)
      (fun _ _ => ⟨List.nodup_nil, Nat.zero_le _, Nat.zero_le _⟩) (fun _ _ => id) hstep,
    step_keeps (fun _ _ he => he.frames.countLaw) (fun _ => id) (fun _ => id) (fun _ _ => reset_countLaw) (fun _ _ => id)
      hstep,
    step_keeps (fun _ _ => Edit.storeLaw) (fun _ _ => storeWf_reset) (fun _ => id) (fun _ => id) (fun _ _ => id) hstep⟩
  · rw [sweepEnded_port]
    exact hu q
  · rw [(resetFrom_queues u q).1]
    exact Nat.zero_le _
  · rw [sweepEnded_port]
    exact hu q
  · rw [(resetFrom_queues u q).2]
    exact ⟨List.nodup_nil, Nat.zero_le _⟩

end Sys2Proof.Machine
end

-- ==== The store, the position last granted and the scrub cursor ====
section
/-! PROOFS. Which operations leave the store, the position last granted and the scrub cursor as they are, said once for each; and
what every command leaves of them (R31, R33, R138). -/

namespace Sys2Proof.Machine

/-- What grants, sweeps and scrub visits alone change: the store, and with it the position last granted and the cursor. -/
def State.fixtures (s : State) : List StoreCell × Nat × PF := (s.store, s.lastGranted, s.cursor)

section
variable (s : State) {t : State}

theorem State.fixtures_eq_iff : t.fixtures = s.fixtures ↔
    t.store = s.store ∧ t.lastGranted = s.lastGranted ∧ t.cursor = s.cursor := by
  simp [State.fixtures]

theorem State.fixtures_snd_iff : t.fixtures.2 = s.fixtures.2 ↔ t.lastGranted = s.lastGranted ∧ t.cursor = s.cursor := by
  simp [State.fixtures]

@[simp] theorem State.fixtures_fold : (s.store, s.lastGranted, s.cursor) = s.fixtures := rfl

/-- The fixtures of a state written out field by field. -/
@[simp] theorem State.fixtures_mk (phase : Phase) (map : Vector MapEntry 256) (waits : List WaitEntry)
    (frames : Vector FrameRec 512) (pool : List PF) (store : List StoreCell) (lastGranted : Nat)
    (writeBacks : List WriteBack) (sessions : Vector SessionRec 8) (groups : Vector GroupRec 4) (jobs : List Job)
    (relocations : List LP) (log : List FaultRecord) (nextSeq : BitVec 16) (cursor : PF) (timer : Option Nat)
    (scrub : Option ScrubRead) (settings : Settings) (ports : Vector PortRec 4) (draws : Nat) (pending : List Instr) :
    (State.mk phase map waits frames pool store lastGranted writeBacks sessions groups jobs relocations log nextSeq cursor
      timer scrub settings ports draws pending).fixtures = (store, lastGranted, cursor) := rfl

@[simp] theorem State.setFrame_fixtures (pf : PF) (f : FrameRec) : (s.setFrame pf f).fixtures = s.fixtures := rfl
@[simp] theorem State.setEntry_fixtures (page : LP) (e : MapEntry) : (s.setEntry page e).fixtures = s.fixtures := rfl
@[simp] theorem State.setSession_fixtures (slot : Slot) (r : SessionRec) : (s.setSession slot r).fixtures = s.fixtures := rfl
@[simp] theorem State.setGroup_fixtures (g : GroupIx) (r : GroupRec) : (s.setGroup g r).fixtures = s.fixtures := rfl
@[simp] theorem State.setPort_fixtures (p : PortId) (r : PortRec) : (s.setPort p r).fixtures = s.fixtures := rfl
@[simp] theorem State.writeWord_anchors (pf : PF) (k : WordIx) (data : Word) :
    (s.writeWord pf k data).fixtures.2 = s.fixtures.2 := rfl
@[simp] theorem State.disturbWord_anchors (pf : PF) (k : WordIx) (flips : BitVec 39) :
    (s.disturbWord pf k flips).fixtures.2 = s.fixtures.2 := rfl

variable {s}

theorem State.KeepsOthers.fixtures {ended : Slot → Prop} {cleared : PortId → Prop} (h : s.KeepsOthers t ended cleared) :
    t.fixtures = s.fixtures := (s.fixtures_eq_iff).mpr ⟨h.store, h.lastGranted, h.cursor⟩

theorem State.Background.fixtures (h : s.Background t) : t.fixtures = s.fixtures :=
  (s.fixtures_eq_iff).mpr ⟨h.store, h.lastGranted, h.cursor⟩

theorem State.Calm.fixtures (h : s.Calm t) : t.fixtures = s.fixtures := h.others.fixtures

theorem State.Ends.fixtures {ended : Slot → Prop} (h : s.Ends t ended) : t.fixtures = s.fixtures := h.others.fixtures

end

section
variable (s : State)

/-! ### The shared operations -/

@[simp] theorem respond_fixtures (p : PortId) (a : Answer) : (respond p a s).fixtures = s.fixtures :=
  (respond_calm s p a).fixtures

@[simp] theorem setService_fixtures (p : PortId) (session : Option Slot) (stage : Stage) :
    (setService p session stage s).fixtures = s.fixtures := (setService_calm s p session stage).fixtures

@[simp] theorem queueNotice_fixtures (p : PortId) (body : NoticeBody) : (queueNotice p body s).fixtures = s.fixtures :=
  (queueNotice_background s p body).fixtures

@[simp] theorem appendRecord_fixtures (kind : FaultKind) (pf : PF) (word : Option WordIx) (syn : Option Syndrome)
    (context : Option ReadContext) (page : Option LP) (handle : Option Handle) :
    (appendRecord kind pf word syn context page handle s).fixtures = s.fixtures := (appendRecord_background ..).fixtures

@[simp] theorem pinFrame_fixtures (pf : PF) : (pinFrame pf s).fixtures = s.fixtures := rfl

@[simp] theorem flagFrame_fixtures (pf : PF) : (flagFrame pf s).fixtures = s.fixtures := rfl

@[simp] theorem mapFrame_fixtures (pf : PF) (page : LP) : (mapFrame pf page s).fixtures = s.fixtures :=
  (mapFrame_background ..).fixtures

@[simp] theorem unpinFrame_fixtures (pf : PF) : (unpinFrame pf s).fixtures = s.fixtures := (unpinFrame_background ..).fixtures

@[simp] theorem unpinAll_fixtures (pfs : List PF) : (unpinAll pfs s).fixtures = s.fixtures := (unpinAll_background ..).fixtures

@[simp] theorem releaseFrame_fixtures (pf : PF) : (releaseFrame pf s).fixtures = s.fixtures :=
  (releaseFrame_background ..).fixtures

@[simp] theorem modifySession_fixtures (slot : Slot) (f : SessionRec → SessionRec) :
    (modifySession slot f s).fixtures = s.fixtures := rfl

@[simp] theorem freeSession_fixtures (slot : Slot) : (freeSession slot s).fixtures = s.fixtures := rfl

@[simp] theorem offerClaim_fixtures (page : LP) : (offerClaim page s).fixtures = s.fixtures :=
  (offerClaim_background ..).fixtures

@[simp] theorem abandonRelocation_fixtures (page : LP) : (abandonRelocation page s).fixtures = s.fixtures :=
  (abandonRelocation_background ..).fixtures

@[simp] theorem startRelocation_fixtures : (startRelocation s).fixtures = s.fixtures :=
  (startRelocation_background s).fixtures

@[simp] theorem stopService_fixtures (p : PortId) (r : InService) : (stopService p r s).fixtures = s.fixtures :=
  (stopService_calm ..).fixtures

@[simp] theorem abortSession_fixtures (slot : Slot) (reason : AbortReason) :
    (abortSession slot reason s).fixtures = s.fixtures := (abortSession_ends s slot reason).fixtures

@[simp] theorem expireSessions_fixtures : (expireSessions s).fixtures = s.fixtures :=
  foldl_keeps State.fixtures _ (fun t slot => by
    split
    · exact abortSession_fixtures ..
    · rfl) _ _

@[simp] theorem applyPages_fixtures (members : List Slot) : (applyPages members s).fixtures = s.fixtures :=
  (applyPages_background ..).fixtures

@[simp] theorem endApplied_fixtures (slot : Slot) : (endApplied slot s).fixtures = s.fixtures := by
  simp only [endApplied, freeSession_fixtures]
  split
  · rfl
  · split <;> simp

@[simp] theorem endMember_fixtures (slot : Slot) : (endMember slot s).fixtures = s.fixtures := by
  simp only [endMember]
  split <;> simp

@[simp] theorem resolveGroup_fixtures (g : GroupIx) (close : Option PortId) :
    (resolveGroup g close s).fixtures = s.fixtures := by
  have hmembers : ∀ (l : List Slot) (t : State), (l.foldl (fun u m => endMember m u) t).fixtures = t.fixtures := fun l t =>
    foldl_keeps State.fixtures _ (fun u m => endMember_fixtures u m) l t
  simp only [resolveGroup]
  split
  · split <;> simp
  · split <;> simp [hmembers]

/-! ### Requests -/

@[simp] theorem serveOpen_fixtures (p : PortId) (tag : Byte) (budget : BitVec 16) :
    (serveOpen p tag budget s).fixtures = s.fixtures := by
  simp only [serveOpen]
  split
  · simp
  · split
    · simp
    · split
      · simp
      · split
        · simp
        · split <;> simp [joinGroup]

@[simp] theorem captureRead_fixtures (p : PortId) (session : Option Slot) (address length : Nat) :
    (captureRead p session address length s).fixtures = s.fixtures := by
  have hpins : ∀ pfs : List PF, (pfs.foldl (fun t pf => pinFrame pf t) s).fixtures = s.fixtures := fun pfs =>
    foldl_keeps State.fixtures _ (fun t pf => pinFrame_fixtures t pf) pfs s
  simp only [captureRead]
  split <;> simp [hpins]

@[simp] theorem firstWrite_fixtures (p : PortId) (slot : Slot) (page : LP) (address : BitVec 16) (wait : Bool)
    (data : List Byte) : (firstWrite p slot page address wait data s).fixtures = s.fixtures := by
  simp only [firstWrite]
  split
  · simp
  · split
    · split
      · simp
      · split <;> simp
    · split
      · simp
      · next h => simp [(takeClaim_background s h).1.fixtures]

/-- No request changes the store, the position last granted or the cursor as it is served. -/
@[simp] theorem serve_fixtures (p : PortId) (op : RequestOp) : (serve p op s).fixtures = s.fixtures := by
  cases op with
  | openSession group budget => simp [serve]
  | abort handle =>
    simp only [serve, serveAbort]
    split <;> simp
  | guard handle page version =>
    simp only [serve, serveGuard]
    split
    · simp
    · split <;> simp
  | read handle address length =>
    simp only [serve, serveRead]
    split
    · simp
    · split <;> simp
  | write handle address flags data =>
    simp only [serve, serveWrite]
    split
    · simp
    · split
      · simp
      · split
        · simp
        · split <;> simp
  | commit handle =>
    simp only [serve, serveCommit]
    split
    · simp
    · split
      · simp
      · split
        · split <;> simp
        · split <;> simp
  | close group =>
    simp only [serve, serveClose]
    split
    · simp
    · split
      · simp
      · simp
      · split <;> simp
  | pageInfo page => simp [serve, servePageInfo]
  | poolInfo => simp [serve, servePoolInfo]
  | sessInfo slot =>
    simp only [serve, serveSessInfo]
    split <;> simp
  | watch page =>
    simp only [serve, serveWatch, setWatches]
    split
    · simp
    · split <;> simp
  | unwatch page =>
    simp only [serve, serveUnwatch, setWatches]
    split <;> simp
  | setConfig record =>
    have hattn : ∀ t : State, (evalAllAttn t).fixtures = t.fixtures := fun t => by
      simp [State.fixtures_eq_iff]
    simp only [serve, serveSetConfig]
    split
    · simp
    · split <;> simp [hattn]
  | getConfig => simp [serve, serveGetConfig]
  | logRead seq =>
    simp only [serve, serveLogRead]
    split <;> simp

@[simp] theorem serveHead_fixtures (p : PortId) : (serveHead p s).fixtures = s.fixtures := by
  simp only [serveHead]
  split <;> simp [takeIntoService]

@[simp] theorem settleUpTo_fixtures (n : Nat) : (settleUpTo n s).fixtures = s.fixtures := by
  induction n generalizing s with
  | zero => rfl
  | succ n ih =>
    rw [settleUpTo]
    split
    · rfl
    · rw [ih, serveHead_fixtures]
    · rw [ih, serveHead_fixtures]
      rfl

@[simp] theorem settle_fixtures : (settle s).fixtures = s.fixtures := settleUpTo_fixtures s _

/-- What follows an event leaves the store, the position last granted and the cursor. -/
@[simp] theorem endEvent_fixtures : (endEvent s).fixtures = s.fixtures := by simp [endEvent]

/-! ### Frames on the wire -/

theorem releaseWire_fixtures (p : PortId) (code : Byte) (n : Nat) {judge : Bool → Nat → State → State}
    (hj : ∀ held len t, (judge held len t).fixtures = t.fixtures) :
    (releaseWire p code n judge s).fixtures = s.fixtures := by
  simp only [releaseWire]
  split <;> simp [hj, endFrame]

@[simp] theorem discard_fixtures (p : PortId) (cause : DiscardCause) : (discard p cause s).fixtures = s.fixtures := rfl

theorem checkedFrame_fixtures (p : PortId) (sent : List Byte) {act : State → State} (ha : (act s).fixtures = s.fixtures) :
    (checkedFrame p sent act s).fixtures = s.fixtures := by
  simp only [checkedFrame]
  split
  · rfl
  · split <;> simp [ha]

@[simp] theorem releaseRequest_fixtures (p : PortId) (n : Nat) (judgement : Except DiscardCause Request) :
    (releaseRequest p n judgement s).fixtures = s.fixtures := by
  refine releaseWire_fixtures s p _ n fun _ _ t => ?_
  simp only [judged]
  split
  · simp
  · split
    · simp
    · split <;> simp

@[simp] theorem sendRequest_fixtures (p : PortId) (r : Request) : (sendRequest p r s).fixtures = s.fixtures :=
  releaseRequest_fixtures ..

@[simp] theorem resetPort_fixtures (p : PortId) : (resetPort p s).fixtures = s.fixtures := by
  simp only [resetPort]
  split
  · rw [endEvent_fixtures]
    exact (clearPort_keepsOthers (ended := fun _ => False) _ p).fixtures.trans (abortPort_ends s p).fixtures
  · rfl

@[simp] theorem codeFrame_fixtures (p : PortId) (code : Byte) : (codeFrame p code s).fixtures = s.fixtures := by
  simp only [codeFrame]
  split <;> rfl

/-- A FETCH, NOTE or PSTAT whose completion leaves the fixtures leaves them. -/
theorem checkedRelease_fixtures (p : PortId) (code : Byte) (sent : List Byte) {done : State → State}
    (hd : ∀ t, (done t).fixtures = t.fixtures) :
    (releaseWire p code sent.length
      (fun held len => checkedFrame p sent fun t => if held ∧ len ≤ sent.length then done t else t) s).fixtures =
      s.fixtures := by
  refine releaseWire_fixtures s p code _ fun held len t => checkedFrame_fixtures t p sent ?_
  split
  · exact hd t
  · rfl

/-! ### The ends of operations -/

@[simp] theorem completeJob_fixtures (job : Job) (slot : Slot) (origin : Origin) :
    (completeJob job slot origin s).fixtures = s.fixtures := by
  simp only [completeJob]
  cases job.source? with
  | none => simp only; split <;> simp
  | some source => simp only; split <;> simp

@[simp] theorem switchRelocation_fixtures (page : LP) (source target : PF) :
    (switchRelocation page source target s).fixtures = s.fixtures := by
  simp [switchRelocation]

@[simp] theorem examineFrame_fixtures (pf : PF) : (examineFrame pf s).fixtures = s.fixtures := by
  simp only [examineFrame]
  split
  · rfl
  · split
    · split <;> simp
    · simp
    · rfl

@[simp] theorem endScrub_fixtures (pf : PF) : (endScrub pf s).fixtures = s.fixtures := by
  simp [endScrub, restartTimer]

/-- A scrub visit, and the tick with it, move the cursor alone of the three. -/
theorem tickTimer_books : (tickTimer s).store = s.store ∧ (tickTimer s).lastGranted = s.lastGranted := by
  simp only [tickTimer]
  split
  · exact ⟨rfl, rfl⟩
  · split
    · unfold visitFrame
      split <;> exact ⟨rfl, rfl⟩
    · exact ⟨rfl, rfl⟩

/-! ### A grant -/

@[simp] theorem correctableWord_fixtures (pf : PF) (k : WordIx) (syn : Syndrome) (data : Word) (context : ReadContext) :
    (correctableWord pf k syn data context s).fixtures = s.fixtures := by
  simp only [correctableWord]
  split <;> simp [countCorrected]

@[simp] theorem uncorrectableRecord_fixtures (pf : PF) (k : WordIx) (syn : Syndrome) (context : ReadContext) :
    (uncorrectableRecord pf k syn context s).fixtures = s.fixtures := (uncorrectableRecord_background ..).fixtures

@[simp] theorem uncorrectableEffect_fixtures (pf : PF) (was : FrameRec) :
    (uncorrectableEffect pf was s).fixtures = s.fixtures := by
  simp only [uncorrectableEffect]
  split
  · simp only [poisonPage, unlistRelocation]
    split <;> simp
  · simp
  · rfl

@[simp] theorem setProgress_fixtures (progress : Progress) : (setProgress progress s).fixtures = s.fixtures := by
  simp only [setProgress]
  split <;> rfl

theorem placeWord_anchors {t : State} {pf : PF} {write : PendingWrite} {k : WordIx} (h : placeWord pf write k s = .ok t) :
    t.fixtures.2 = s.fixtures.2 := by
  simp only [placeWord] at h
  split at h
  · cases h; rfl
  · split at h
    · cases h; rfl
    · cases h; simp
    · cases h

@[simp] theorem portAccess_anchors (p : PortId) : (portAccess p s).fixtures.2 = s.fixtures.2 := by
  simp only [portAccess]
  split
  · simp only [readStep, readFails]
    split <;> simp
  · simp only [placeStep, placeFails]
    split
    · next h => simp [placeWord_anchors s h]
    · split <;> simp
  · rfl

@[simp] theorem failWrite_fixtures (slot : Slot) (page : LP) (target : PF) (origin : Origin) :
    (failWrite slot page target origin s).fixtures = s.fixtures := by
  simp only [failWrite, dropEntry]
  split <;> simp

@[simp] theorem fillStep_fixtures (job : Job) (source : PF) (k : WordIx) :
    (fillStep job source k s).fixtures = s.fixtures := by
  simp only [fillStep]
  split
  · simp
  · simp
  · split
    · simp only [copyFails]
      split
      · split <;> simp
      · simp
    · simp only [relocateFails]
      split <;> simp
    · rfl

@[simp] theorem jobStep_anchors (job : Job) : (jobStep job s).fixtures.2 = s.fixtures.2 := by
  simp only [jobStep]
  split
  · split <;> simp
  · simp
  · rfl
  · split
    · next h => simp [placeWord_anchors s h]
    · simp [jobPlaceFails]

@[simp] theorem scrubStep_fixtures (r : ScrubRead) (k : WordIx) : (scrubStep r k s).fixtures = s.fixtures := by
  simp only [scrubStep, scrubFails, restartTimer]
  split <;> simp

/-- A word access moves neither the position last granted nor the cursor. -/
@[simp] theorem clientAccess_anchors (position : Nat) : (clientAccess position s).fixtures.2 = s.fixtures.2 := by
  simp only [clientAccess]
  split
  · simp
  · simp
  · simp
  · simp
  · split <;> simp
  · split
    · rfl
    · split <;> simp
  · split
    · rfl
    · simp only [writeBackStep]
      split <;> rfl
  · rfl

end

end Sys2Proof.Machine
end

-- ==== What commands leave, and the ring of the arbiter ====
section
/-! PROOFS. The fixtures and the standing over every command; and the position that a grant takes (R31, R33, R35, R138). -/

namespace Sys2Proof.Machine

variable {s t : State}

/-- A command other than a grant, a tick, a scrub visit, a device reset and the sweep leaves the store, the position last
granted and the cursor. -/
theorem exec_fixtures (s : State) {c : Instr} (hgrant : ∀ flips, c ≠ .storeArbiterGrant flips) (hreset : c ≠ .deviceReset)
    (hsweep : c ≠ .initializationSweep) (htick : c ≠ .tick) (hvisit : c ≠ .scrubVisit) :
    ∃ u, exec c s = .next u ∧ u.fixtures = s.fixtures := by
  cases c with
  | storeArbiterGrant flips => exact absurd rfl (hgrant flips)
  | deviceReset => exact absurd rfl hreset
  | initializationSweep => exact absurd rfl hsweep
  | tick => exact absurd rfl htick
  | scrubVisit => exact absurd rfl hvisit
  | sweepEnd => exact ⟨_, rfl, by split <;> rfl⟩
  | expiry => exact ⟨_, rfl, by simp⟩
  | request port sent => exact ⟨_, rfl, releaseRequest_fixtures ..⟩
  | fetch port sent =>
    exact ⟨_, rfl, checkedRelease_fixtures s port _ sent fun u => by simp [State.fixtures_eq_iff]⟩
  | note port sent => exact ⟨_, rfl, checkedRelease_fixtures s port _ sent fun _ => rfl⟩
  | pstat port sent => exact ⟨_, rfl, checkedRelease_fixtures s port _ sent fun _ => rfl⟩
  | preset port sent =>
    exact ⟨_, rfl, releaseWire_fixtures s port _ _ fun _ _ u =>
      checkedFrame_fixtures u port sent (resetPort_fixtures u port)⟩
  | unknownFrameCode port code sent =>
    refine ⟨_, rfl, ?_⟩
    split
    · rfl
    · exact releaseWire_fixtures s port _ _ fun _ _ _ => rfl
  | openSession port tag group budget => exact ⟨_, rfl, sendRequest_fixtures ..⟩
  | abort port tag handle => exact ⟨_, rfl, sendRequest_fixtures ..⟩
  | guard port tag handle page version => exact ⟨_, rfl, sendRequest_fixtures ..⟩
  | read port tag handle address length => exact ⟨_, rfl, sendRequest_fixtures ..⟩
  | write port tag handle address flags data => exact ⟨_, rfl, sendRequest_fixtures ..⟩
  | commit port tag handle => exact ⟨_, rfl, sendRequest_fixtures ..⟩
  | close port tag group => exact ⟨_, rfl, sendRequest_fixtures ..⟩
  | pageInfo port tag page => exact ⟨_, rfl, sendRequest_fixtures ..⟩
  | poolInfo port tag => exact ⟨_, rfl, sendRequest_fixtures ..⟩
  | sessInfo port tag slot => exact ⟨_, rfl, sendRequest_fixtures ..⟩
  | watch port tag page => exact ⟨_, rfl, sendRequest_fixtures ..⟩
  | unwatch port tag page => exact ⟨_, rfl, sendRequest_fixtures ..⟩
  | setConfig port tag record => exact ⟨_, rfl, sendRequest_fixtures ..⟩
  | getConfig port tag => exact ⟨_, rfl, sendRequest_fixtures ..⟩
  | logRead port tag seq => exact ⟨_, rfl, sendRequest_fixtures ..⟩
  | readCompletion port => exact ⟨_, rfl, by split <;> simp⟩
  | writePlacementEnd port => exact ⟨_, rfl, by split <;> simp⟩
  | jobCompletion => exact ⟨_, rfl, by split <;> simp⟩
  | relocationSwitch => exact ⟨_, rfl, by split <;> simp⟩
  | relocationStart => exact ⟨_, rfl, startRelocation_fixtures s⟩
  | scrubReadEnd =>
    refine ⟨_, rfl, ?_⟩
    split
    · rfl
    · split <;> simp
  | frameCodeByteEnd port part =>
    refine ⟨_, rfl, ?_⟩
    cases part with
    | csnAsserted => rfl
    | codeByteEnd code => exact codeFrame_fixtures s port code

/-- A tick takes the cursor on; the store and the position last granted stay. -/
theorem exec_tick_books (s : State) :
    ∃ u, exec .tick s = .next u ∧ u.store = s.store ∧ u.lastGranted = s.lastGranted := by
  obtain ⟨hstore, hlast, -⟩ := (State.fixtures_eq_iff _).mp
    (endEvent_fixtures (tickTimer (expireSessions (lowerBudgets s))))
  obtain ⟨htstore, htlast⟩ := tickTimer_books (expireSessions (lowerBudgets s))
  obtain ⟨hestore, helast, -⟩ := (State.fixtures_eq_iff _).mp (expireSessions_fixtures (lowerBudgets s))
  exact ⟨_, rfl, hstore.trans (htstore.trans hestore), hlast.trans (htlast.trans helast)⟩

theorem exec_scrubVisit_books (s : State) :
    ∃ u, exec .scrubVisit s = .next u ∧ u.store = s.store ∧ u.lastGranted = s.lastGranted := by
  refine ⟨_, rfl, ?_⟩
  split
  · unfold visitFrame
    split <;> exact ⟨rfl, rfl⟩
  · exact ⟨rfl, rfl⟩

/-- The sweep leaves the position last granted, the cursor and the queue. -/
theorem exec_sweep_books (s : State) : ∃ u, exec .initializationSweep s = .next u ∧ u.lastGranted = s.lastGranted ∧
    u.cursor = s.cursor ∧ u.pending = s.pending := by
  refine ⟨_, rfl, ?_⟩
  split <;> exact ⟨rfl, rfl, rfl⟩

/-- A grant moves the position last granted to the client granted, and the cursor stays. -/
theorem grant_anchors (flips : BitVec 39) : (grant flips s).cursor = s.cursor ∧
    ∀ position, nextClient s = some position → (grant flips s).lastGranted = position := by
  cases hnext : nextClient s with
  | none => exact ⟨by simp [grant, hnext], nofun⟩
  | some position =>
    obtain ⟨hlast, hcursor⟩ := (State.fixtures_snd_iff _).mp (show
      (endEvent (clientAccess position { disturbFor position flips s with lastGranted := position })).fixtures.2 =
        (State.fixtures { disturbFor position flips s with lastGranted := position }).2 by
      rw [endEvent_fixtures, clientAccess_anchors])
    have hdisturb : (disturbFor position flips s).cursor = s.cursor := by
      simp only [disturbFor]
      split <;> rfl
    simp only [grant, hnext]
    refine ⟨hcursor.trans hdisturb, ?_⟩
    rintro _ ⟨⟩
    exact hlast

/-- No edit changes where the device stands, or the queue of commands. -/
theorem Edit.standing (h : Edit s t) : t.phase = s.phase ∧ t.pending = s.pending := by
  cases h with
  | allocate _ state owner pf hst ha =>
    simp only [Machine.allocate] at ha
    split at ha
    · cases ha
    · cases ha
      exact ⟨rfl, rfl⟩
  | configure record timer hr hf => simp
  | notice p body => simp
  | respond p a => simp
  | service p session stage => simp
  | discard p cause => simp
  | fetch p => simp
  | _ => exact ⟨rfl, rfl⟩

/-- Settles O60: the few commands that change one of the three are taken apart, every other leaves all three; the standing and
the queue no edit changes. -/
theorem onlyTheseCommandsChange : Obligations.OnlyTheseCommandsChange := by
  intro c s t hexec
  have hnext : ∀ {u : State}, exec c s = .next u → u = t := fun hu => Host.Outcome.next.inj (hu.symm.trans hexec)
  have hfixed : (∀ flips, c ≠ .storeArbiterGrant flips) → c ≠ .deviceReset → c ≠ .initializationSweep → c ≠ .tick →
      c ≠ .scrubVisit → t.store = s.store ∧ t.lastGranted = s.lastGranted ∧ t.cursor = s.cursor := fun hg hr hs ht hv => by
    obtain ⟨u, hu, hkept⟩ := exec_fixtures s hg hr hs ht hv
    exact (State.fixtures_eq_iff s).mp (hnext hu ▸ hkept)
  have htick : c = .tick → t.store = s.store ∧ t.lastGranted = s.lastGranted := fun hc => by
    obtain ⟨u, hu, hkept⟩ := exec_tick_books s
    exact hnext (hc ▸ hu) ▸ hkept
  have hvisit : c = .scrubVisit → t.store = s.store ∧ t.lastGranted = s.lastGranted := fun hc => by
    obtain ⟨u, hu, hkept⟩ := exec_scrubVisit_books s
    exact hnext (hc ▸ hu) ▸ hkept
  have hsweep : c = .initializationSweep → t.lastGranted = s.lastGranted ∧ t.cursor = s.cursor ∧ t.pending = s.pending :=
    fun hc => by
      obtain ⟨u, hu, hkept⟩ := exec_sweep_books s
      exact hnext (hc ▸ hu) ▸ hkept
  have hreset : c = .deviceReset → s.resetFrom = t := fun hc => hnext (hc ▸ exec_deviceReset s)
  have hstanding : c ≠ .deviceReset → c ≠ .initializationSweep → c ≠ .sweepEnd →
      t.phase = s.phase ∧ t.pending = s.pending := fun hr hs he => by
    obtain ⟨u, hu, hedits⟩ := exec_edits s c hr hs he
    exact hnext hu ▸ hedits.keeps (Inv := fun v => v.phase = s.phase ∧ v.pending = s.pending)
      (fun v w he ⟨hphase, hpending⟩ => ⟨he.standing.1.trans hphase, he.standing.2.trans hpending⟩) ⟨rfl, rfl⟩
  refine ⟨fun hg hs => ?_, fun hg hr => ?_, fun ht hv hr => ?_, fun hr hs he => (hstanding hr hs he).1, ?_⟩
  · by_cases hr : c = .deviceReset
    · exact hreset hr ▸ rfl
    by_cases ht : c = .tick
    · exact (htick ht).1
    by_cases hv : c = .scrubVisit
    · exact (hvisit hv).1
    exact (hfixed hg hr hs ht hv).1
  · by_cases hs : c = .initializationSweep
    · exact (hsweep hs).1
    by_cases ht : c = .tick
    · exact (htick ht).2
    by_cases hv : c = .scrubVisit
    · exact (hvisit hv).2
    exact (hfixed hg hr hs ht hv).2.1
  · by_cases hs : c = .initializationSweep
    · exact (hsweep hs).2.1
    by_cases hg : ∃ flips, c = .storeArbiterGrant flips
    · obtain ⟨flips, rfl⟩ := hg
      have hgrant : grant flips s = t := hnext rfl
      exact hgrant ▸ (grant_anchors flips).1
    exact (hfixed (fun flips hc => hg ⟨flips, hc⟩) hr hs ht hv).2.2
  · by_cases hr : c = .deviceReset
    · exact hreset hr ▸ rfl
    by_cases hs : c = .initializationSweep
    · exact (hsweep hs).2.2
    by_cases he : c = .sweepEnd
    · subst he
      obtain ⟨u, hu, hkept⟩ : ∃ u, exec .sweepEnd s = .next u ∧ u.pending = s.pending := ⟨_, rfl, by split <;> rfl⟩
      exact hnext hu ▸ hkept
    exact (hstanding hr hs he).2

/-! ### The ring -/

/-- The position a grant tries after passing over i others is at ring distance i. -/
theorem ringDistance_ringAfter (last : Nat) {i : Nat} (h : i < (ringAfter last).length) :
    ringDistance last (ringAfter last)[i] = i := by
  have hi : i < 7 := by simpa [ringAfter] using h
  simp only [ringAfter, List.getElem_map, List.getElem_range, ringDistance]
  omega

/-- The position at a ring distance is the one a grant tries after passing over so many. -/
theorem ringAfter_ringDistance (last : Nat) {c : Nat} (h1 : 1 ≤ c) (h7 : c ≤ 7)
    (h : ringDistance last c < (ringAfter last).length) : (ringAfter last)[ringDistance last c] = c := by
  simp only [ringAfter, List.getElem_map, List.getElem_range, ringDistance]
  omega

theorem ringDistance_lt (last c : Nat) : ringDistance last c < (ringAfter last).length := by
  simp only [ringAfter, List.length_map, List.length_range, ringDistance]
  omega

/-- The next client waits, and none that waits lies nearer in the ring. -/
theorem nextClient_spec {position : Nat} (h : nextClient s = some position) : 1 ≤ position ∧ position ≤ 7 ∧
    clientWaits s position = true ∧ ∀ c, 1 ≤ c → c ≤ 7 → clientWaits s c = true →
      ringDistance s.lastGranted position ≤ ringDistance s.lastGranted c := by
  obtain ⟨hwaits, i, hi, hat, hbefore⟩ := List.find?_eq_some_iff_getElem.mp h
  subst hat
  refine ⟨?_, ?_, hwaits, fun c h1 h7 hc => ?_⟩
  · simp [ringAfter]
  · simp only [ringAfter, List.getElem_map]
    omega
  · rw [ringDistance_ringAfter]
    by_contra hlt
    have hno := hbefore _ (Nat.lt_of_not_le hlt)
    rw [ringAfter_ringDistance _ h1 h7, hc] at hno
    cases hno

/-- Where a position of the ring waits, a client is found. -/
theorem nextClient_isSome {c : Nat} (h1 : 1 ≤ c) (h7 : c ≤ 7) (hc : clientWaits s c = true) :
    ∃ position, nextClient s = some position := by
  refine Option.isSome_iff_exists.mp (List.find?_isSome.mpr ⟨c, ?_, hc⟩)
  exact List.mem_iff_getElem.mpr ⟨_, ringDistance_lt _ c, ringAfter_ringDistance _ h1 h7 _⟩

/-- Settles O38: the client found is the first that waits in the ring's order, and its position is the one last granted after
its event. -/
theorem arbiterFollowsRing : Obligations.ArbiterFollowsRing := by
  rintro flips s ⟨c, h1, h7, hc⟩
  obtain ⟨position, hnext⟩ := nextClient_isSome h1 h7 hc
  refine ⟨grant flips s, rfl, ?_⟩
  rw [(grant_anchors flips).2 position hnext]
  exact nextClient_spec hnext

end Sys2Proof.Machine
end

-- ==== The sweep and the check code ====
section
/-! PROOFS. What the sweep and its end write (R35); and the syndromes of the 39 bit positions: each of odd weight, no two equal,
whichever draws the implementation makes (R126). -/

namespace Sys2Proof.Machine

/-- Settles O4: an empty store reads as blank words, and the end of the sweep writes its fields. -/
theorem sweepAndItsEnd : Obligations.SweepAndItsEnd := by
  refine ⟨fun s hs => ?_, fun s hs => ?_⟩
  · refine ⟨{ s with phase := .sweeping, store := [] }, ?_, fun pf k => ⟨rfl, decode_fresh 0⟩, rfl⟩
    simp only [exec, execInitializationSweep, hs]
  · refine ⟨sweepEnded s, ?_, fun p => sweepEnded_port s p, rfl, rfl⟩
    simp only [exec, execSweepEnd, hs]

/-! ### The draws -/

/-- What is drawn from a list is part of it, nothing drawn twice. -/
theorem takeDraws_subperm (draw : Nat → Nat) (n : Nat) (l : List Syndrome) : (takeDraws draw n l).Subperm l := by
  induction n generalizing l with
  | zero => exact List.nil_subperm
  | succ n ih =>
    cases l with
    | nil => exact List.nil_subperm
    | cons first rest =>
      have hlt : draw n % (rest.length + 1) < (first :: rest).length := Nat.mod_lt _ (Nat.succ_pos _)
      simp only [takeDraws, List.getD_eq_getElem _ _ hlt]
      exact ((List.subperm_cons _).mpr (ih _)).trans (List.getElem_cons_eraseIdx_perm hlt).subperm

/-- As many are drawn as are asked for, where the list has as many. -/
theorem takeDraws_length (draw : Nat → Nat) (n : Nat) (l : List Syndrome) (h : n ≤ l.length) :
    (takeDraws draw n l).length = n := by
  induction n generalizing l with
  | zero => rfl
  | succ n ih =>
    cases l with
    | nil => cases h
    | cons first rest =>
      have hlt : draw n % (rest.length + 1) < (first :: rest).length := Nat.mod_lt _ (Nat.succ_pos _)
      simp only [takeDraws, List.length_cons, Nat.add_right_cancel_iff]
      refine ih _ ?_
      rw [List.length_eraseIdx_of_lt hlt]
      exact Nat.le_of_succ_le_succ h

theorem threeBitSyndromes_nodup : threeBitSyndromes.Nodup := by decide

theorem threeBitSyndromes_length : threeBitSyndromes.length = 35 := by decide

theorem dataSyndromes_length : dataSyndromes.length = 32 :=
  takeDraws_length _ _ _ (by rw [threeBitSyndromes_length]; decide)

theorem dataSyndrome_eq (bit : Fin 32) : dataSyndrome bit = dataSyndromes[bit.val]'(by simp [dataSyndromes_length]) :=
  List.getD_eq_getElem ..

/-- A data bit's syndrome has three bits set. -/
theorem dataSyndrome_weight (bit : Fin 32) : syndromeWeight (dataSyndrome bit) = 3 := by
  have hmem : dataSyndrome bit ∈ threeBitSyndromes :=
    (takeDraws_subperm ..).subset (dataSyndrome_eq bit ▸ List.getElem_mem _)
  simpa using (List.mem_filter.mp hmem).2

theorem dataSyndrome_injective : Function.Injective dataSyndrome := fun i j h => by
  obtain ⟨drawn, hperm, hsub⟩ := takeDraws_subperm Config.syndromeDraw 32 threeBitSyndromes
  have hnodup : dataSyndromes.Nodup := hperm.nodup_iff.mp (threeBitSyndromes_nodup.sublist hsub)
  rw [dataSyndrome_eq, dataSyndrome_eq] at h
  exact Fin.ext (hnodup.getElem_inj_iff.mp h)

/-! ### The syndromes of the bit positions -/

/-- The syndrome of a bit position: a data bit's or a check bit's (R126). -/
def bitSyndrome (bit : Fin 39) : Syndrome :=
  if h : bit.val < 32 then dataSyndrome ⟨bit.val, h⟩ else 1#7 <<< (bit.val - 32)

/-- A disturbed bit adds its syndrome to the word's. -/
theorem disturbBit_diff (w : StoreWord) (bit : Fin 39) : (w.disturbBit bit).diff = w.diff ^^^ bitSyndrome bit := by
  simp only [StoreWord.disturbBit, bitSyndrome]
  split <;> rfl

theorem checkSyndrome_weight : ∀ bit : Fin 7, syndromeWeight (1#7 <<< bit.val) = 1 := by decide

theorem checkSyndrome_injective : Function.Injective fun bit : Fin 7 => 1#7 <<< bit.val := by decide

theorem bitSyndrome_of_check {bit : Fin 39} (h : ¬ bit.val < 32) :
    bitSyndrome bit = 1#7 <<< (⟨bit.val - 32, by omega⟩ : Fin 7).val := dif_neg h

/-- Every position's syndrome has one bit or three set. -/
theorem bitSyndrome_weight (bit : Fin 39) :
    syndromeWeight (bitSyndrome bit) = if bit.val < 32 then 3 else 1 := by
  split
  · next h => rw [bitSyndrome, dif_pos h, dataSyndrome_weight]
  · next h => rw [bitSyndrome_of_check h, checkSyndrome_weight]

/-- No two positions share a syndrome. -/
theorem bitSyndrome_injective : Function.Injective bitSyndrome := fun i j h => by
  have hweight := congrArg syndromeWeight h
  rw [bitSyndrome_weight, bitSyndrome_weight] at hweight
  by_cases hi : i.val < 32
  · by_cases hj : j.val < 32
    · rw [bitSyndrome, bitSyndrome, dif_pos hi, dif_pos hj] at h
      exact Fin.ext (Fin.mk.inj (dataSyndrome_injective h))
    · simp [hi, hj] at hweight
  · by_cases hj : j.val < 32
    · simp [hi, hj] at hweight
    · rw [bitSyndrome_of_check hi, bitSyndrome_of_check hj] at h
      have hval := Fin.mk.inj (checkSyndrome_injective h)
      exact Fin.ext (by omega)

/-! ### Weights of sums -/

theorem countP_xor_mod_two {α : Type} (p q : α → Bool) (l : List α) :
    (l.countP fun x => p x ^^ q x) % 2 = (l.countP p + l.countP q) % 2 := by
  induction l with
  | nil => rfl
  | cons x l ih =>
    simp only [List.countP_cons]
    cases p x <;> cases q x <;> simp <;> omega

/-- The weight of a sum of syndromes is even where both weights are odd. -/
theorem syndromeWeight_xor (a b : Syndrome) :
    syndromeWeight (a ^^^ b) % 2 = (syndromeWeight a + syndromeWeight b) % 2 := by
  rw [syndromeWeight, syndromeWeight, syndromeWeight, ← countP_xor_mod_two]
  simp only [BitVec.getLsb_eq_getElem, Fin.getElem_fin, BitVec.getElem_xor]

theorem eq_zero_of_syndromeWeight {a : Syndrome} (h : syndromeWeight a = 0) : a = 0 := by
  refine BitVec.eq_of_getElem_eq fun k hk => ?_
  have hbit := List.countP_eq_zero.mp h ⟨k, hk⟩ (List.mem_finRange _)
  simpa [BitVec.getLsb_eq_getElem] using hbit

/-! ### Words with disturbed bits -/

/-- A word whose syndrome is not zero and has an even number of bits set decodes uncorrectable. -/
theorem decode_of_even {w : StoreWord} (heven : syndromeWeight w.diff % 2 = 0) (hne : w.diff ≠ 0) :
    w.decode = .uncorrectable := by
  have hzero : syndromeWeight w.diff ≠ 0 := fun h => hne (eq_zero_of_syndromeWeight h)
  simp only [StoreWord.decode]
  split
  · contradiction
  · next h => simp [h] at heven
  · next h => simp [h] at heven
  · rfl

theorem dataBitOf_dataSyndrome (bit : Fin 32) : dataBitOf (dataSyndrome bit) = some bit := by
  obtain ⟨found, hfound⟩ : ∃ found, dataBitOf (dataSyndrome bit) = some found :=
    Option.isSome_iff_exists.mp (List.find?_isSome.mpr ⟨bit, List.mem_finRange bit, by simp⟩)
  have hsame : dataSyndrome found = dataSyndrome bit :=
    of_decide_eq_true (List.find?_some (p := fun b => decide (dataSyndrome b = dataSyndrome bit)) hfound)
  rw [hfound, dataSyndrome_injective hsame]

/-- One disturbed bit is corrected: a data bit is inverted back, a check bit leaves the data. -/
theorem decode_disturbBit (data : Word) (bit : Fin 39) :
    ((StoreWord.fresh data).disturbBit bit).decode = .correctable data := by
  have hweight := bitSyndrome_weight bit
  have hdiff : ((StoreWord.fresh data).disturbBit bit).diff = bitSyndrome bit := by
    rw [disturbBit_diff]
    exact BitVec.zero_xor
  rw [StoreWord.decode, hdiff, hweight]
  by_cases h : bit.val < 32
  · have hbits : ((StoreWord.fresh data).disturbBit bit).bits = data ^^^ (1#32 <<< bit.val) := by
      rw [StoreWord.disturbBit, dif_pos h]
      rfl
    have hfound : dataBitOf (bitSyndrome bit) = some ⟨bit.val, h⟩ := by
      rw [bitSyndrome, dif_pos h, dataBitOf_dataSyndrome]
    simp only [if_pos h, hfound, hbits, BitVec.xor_assoc, BitVec.xor_self, BitVec.xor_zero]
  · have hbits : ((StoreWord.fresh data).disturbBit bit).bits = data := by
      rw [StoreWord.disturbBit, dif_neg h]
      rfl
    simp only [if_neg h, hbits]

/-- Settles O39: one disturbed bit leaves a syndrome of its own, two leave one of even weight that is not zero. -/
theorem checkCodeCorrectsOneDetectsTwo : Obligations.CheckCodeCorrectsOneDetectsTwo := by
  refine fun data => ⟨decode_fresh data, decode_disturbBit data, fun i j hne => ?_⟩
  have hdiff : (((StoreWord.fresh data).disturbBit i).disturbBit j).diff = bitSyndrome i ^^^ bitSyndrome j := by
    rw [disturbBit_diff, disturbBit_diff]
    exact congrArg (· ^^^ bitSyndrome j) BitVec.zero_xor
  refine decode_of_even ?_ ?_
  · rw [hdiff, syndromeWeight_xor, bitSyndrome_weight, bitSyndrome_weight]
    by_cases hi : i.val < 32 <;> by_cases hj : j.val < 32 <;> simp [hi, hj]
  · rw [hdiff]
    exact fun h => hne (bitSyndrome_injective (BitVec.xor_eq_zero_iff.mp h))

end Sys2Proof.Machine
end

-- ==== A correctable word, and the bytes of a placement ====
section
/-! PROOFS. What a correctable word leaves where no port has fault notices on (R28, R29, R127, R128, R133); and the word that a
placement writes, byte by byte (R32, R58). -/

namespace Sys2Proof.Machine

section
variable {s : State}

/-- A frame's record after one more corrected word: the count saturates, a SHADOW frame now at the threshold is flagged
(R28, R29). -/
def FrameRec.counted (f : FrameRec) (threshold : Nat) : FrameRec :=
  { f with
    corrected := min (f.corrected + 1) (max 15 f.corrected)
    retireOnRelease := f.retireOnRelease ||
      (decide (f.state = .shadow) && decide (threshold ≤ min (f.corrected + 1) (max 15 f.corrected))) }

/-- A count that saturates at 15, written as a minimum. -/
theorem saturated_eq (n : Nat) : (if n < Config.correctedMax then n + 1 else n) = min (n + 1) (max 15 n) := by
  by_cases h : n < Config.correctedMax
  · rw [if_pos h]
    simp only [Config.correctedMax] at h
    omega
  · rw [if_neg h]
    simp only [Config.correctedMax] at h
    omega

theorem countCorrected_eq (pf : PF) (s : State) :
    countCorrected pf s = s.setFrame pf ((s.frame pf).counted s.settings.retireThreshold) := by
  simp only [countCorrected, saturated_eq]
  rfl

/-- A correctable word where no port has fault notices on: the count, the flag, the record, the write-back. -/
theorem correctableWord_eq (hn : s.NoFaultNotices) (pf : PF) (k : WordIx) (syn : Syndrome) (data : Word)
    (context : ReadContext) :
    correctableWord pf k syn data context s =
      { (s.setFrame pf ((s.frame pf).counted s.settings.retireThreshold)).logged
          { seq := s.nextSeq, kind := .corrected, frame := pf, word := some k, syndrome := some syn,
            context := some context, page := s.recordPage pf, handle := s.recordHandle pf } with
        writeBacks := if s.writeBacks.length < 8 then s.writeBacks ++ [⟨pf, k, syn, data⟩] else s.writeBacks } := by
  obtain ⟨u, hu⟩ : ∃ u, u = s.setFrame pf ((s.frame pf).counted s.settings.retireThreshold) := ⟨_, rfl⟩
  have hnu : u.NoFaultNotices := by rw [hu]; exact hn
  have hpage : u.recordPage pf = s.recordPage pf := by
    simp only [State.recordPage, hu, State.setFrame_frame_self, FrameRec.counted]
  have hhandle : u.recordHandle pf = s.recordHandle pf := by
    simp only [State.recordHandle, hu, State.setFrame_frame_self, FrameRec.counted, State.setFrame_handle]
  have hseq : u.nextSeq = s.nextSeq := by rw [hu]; rfl
  have hback : u.writeBacks = s.writeBacks := by rw [hu]; rfl
  simp only [correctableWord, countCorrected_eq, ← hu, appendRecord_of_no_notices hnu, hpage, hhandle, hseq, ← hback]
  split
  · next h => rw [if_pos (show u.writeBacks.length < 8 from h)]; rfl
  · next h => rw [if_neg (show ¬ u.writeBacks.length < 8 from h)]; rfl

/-- Nothing follows an event that leaves the start conditions of a relocation and the ports. -/
theorem State.Quiet.congr {t : State} (h : s.Quiet) (hdue : relocationDue t = relocationDue s) (hports : t.ports = s.ports) :
    t.Quiet := by
  refine ⟨hdue.trans h.1, fun q => ?_⟩
  simp only [State.port, hports]
  exact h.2 q

/-- Settles O41: the access is the model's on a correctable word, the scrub read goes on in its frame, and nothing follows. -/
theorem correctableWordIsRecorded : Obligations.CorrectableWordIsRecorded := by
  intro pf k word s hquiet hnext hscrub hword hn count record
  obtain ⟨u, hu⟩ : ∃ u : State, u = { s with lastGranted := 6 } := ⟨_, rfl⟩
  have hnu : u.NoFaultNotices := by rw [hu]; exact hn
  have haccess : scrubStep ⟨pf, k.val⟩ k u =
      { correctableWord pf k (s.word pf k).diff word .scrub u with scrub := some ⟨pf, k.val + 1⟩ } := by
    have hword' : (u.word pf k).decode = .correctable word := by rw [hu]; exact hword
    simp only [scrubStep, hword']
    rw [hu]
    rfl
  rw [exec_grant_zero hnext, ← hu, clientAccess_scrub (s := u) (by rw [hu]; exact hscrub), haccess, correctableWord_eq hnu, hu]
  have hdue : relocationDue { s with scrub := some ⟨pf, k.val + 1⟩ } = relocationDue s := by
    simp only [relocationDue, hscrub]
    rfl
  refine congrArg Host.Outcome.next (Eq.trans (endEvent_of_quiet ?_) ?_)
  · exact hquiet.congr hdue rfl
  · simp only [State.logged, trimmedLog_eq]
    rfl

/-! ### The bytes of a placement -/

/-- The bits of a word made of four bytes. -/
theorem wordOfBytes_getLsbD (b0 b1 b2 b3 : Byte) (i : Nat) : (wordOfBytes b0 b1 b2 b3).getLsbD i =
    if i < 8 then b0.getLsbD i else if i - 8 < 8 then b1.getLsbD (i - 8)
    else if i - 8 - 8 < 8 then b2.getLsbD (i - 8 - 8) else b3.getLsbD (i - 8 - 8 - 8) := by
  show (b3 ++ b2 ++ b1 ++ b0 : BitVec (8 + 8 + 8 + 8)).getLsbD i = _
  simp only [BitVec.getLsbD_append]

/-- The bytes of a word are those it was made of (R58). -/
theorem byteOfWord_wordOfBytes (b : Nat → Byte) {n : Nat} (hn : n < 4) :
    byteOfWord (wordOfBytes (b 0) (b 1) (b 2) (b 3)) n = b n := by
  refine BitVec.eq_of_getLsbD_eq fun i hi => ?_
  simp only [byteOfWord, BitVec.getLsbD_extractLsb', hi, decide_true, Bool.true_and, wordOfBytes_getLsbD]
  match n, hn with
  | 0, _ => rw [if_pos (by omega), show 8 * 0 + i = i by omega]
  | 1, _ => rw [if_neg (by omega), if_pos (by omega), show 8 * 1 + i - 8 = i by omega]
  | 2, _ => rw [if_neg (by omega), if_neg (by omega), if_pos (by omega), show 8 * 2 + i - 8 - 8 = i by omega]
  | 3, _ => rw [if_neg (by omega), if_neg (by omega), if_neg (by omega), show 8 * 3 + i - 8 - 8 - 8 = i by omega]

theorem byteOfWord_merge (write : PendingWrite) (k : WordIx) (old : Word) {n : Nat} (hn : n < 4) :
    byteOfWord (write.merge k old) n = write.mergeByte k old n := byteOfWord_wordOfBytes (write.mergeByte k old) hn

/-- A full word keeps nothing of the old one. -/
theorem merge_of_full {write : PendingWrite} {k : WordIx} (h : write.full k = true) (old : Word) :
    write.merge k 0 = write.merge k old := by
  simp only [PendingWrite.full, Bool.and_eq_true, decide_eq_true_eq] at h
  have hbyte : ∀ n < 4, write.mergeByte k 0 n = write.mergeByte k old n := fun n hn => by
    simp only [PendingWrite.mergeByte]
    rw [if_pos (by omega), if_pos (by omega)]
  simp only [PendingWrite.merge, hbyte 0 (by decide), hbyte 1 (by decide), hbyte 2 (by decide), hbyte 3 (by decide)]

/-- The bytes of a write placed over a clean word. -/
theorem placeWord_of_clean {pf : PF} {k : WordIx} {old : Word} (h : (s.word pf k).decode = .clean old)
    (write : PendingWrite) : placeWord pf write k s = .ok (s.writeWord pf k (write.merge k old)) := by
  simp only [placeWord, h]
  split
  · next hfull => rw [merge_of_full hfull]
  · rfl

/-- Settles O45: the access writes the merged word, whose bytes are the write's in the span and the old ones outside. -/
theorem placementWritesTheSpan : Obligations.PlacementWritesTheSpan := by
  intro p r session pf write k todo zeroed old s hquiet hstore hnext hserv hword
  have haccess : portAccess p { s with lastGranted := p.val + 1 } =
      State.setPort (State.writeWord { s with lastGranted := p.val + 1 } pf k (write.merge k old)) p
        { s.port p with inService := some ⟨r, session, .placing pf write todo zeroed⟩ } := by
    have hserv' : (State.port { s with lastGranted := p.val + 1 } p).inService =
      some ⟨r, session, .placing pf write (k :: todo) zeroed⟩ := hserv
    have hword' : (State.word { s with lastGranted := p.val + 1 } pf k).decode = .clean old := hword
    simp only [portAccess, hserv', placeStep, placeWord_of_clean hword', setService, State.writeWord_port]
    rfl
  have hself := writeWord_word_self hstore pf k (write.merge k old)
  have hexec : exec (.storeArbiterGrant 0) s =
      .next (State.setPort (State.writeWord { s with lastGranted := p.val + 1 } pf k (write.merge k old)) p
        { s.port p with inService := some ⟨r, session, .placing pf write todo zeroed⟩ }) := by
    rw [exec_grant_zero hnext, clientAccess_port, haccess]
    refine congrArg Host.Outcome.next (endEvent_of_quiet ⟨hquiet.1, ?_⟩)
    exact inService_queueLaw (s := State.writeWord { s with lastGranted := p.val + 1 } pf k (write.merge k old)) hquiet.2 rfl
  refine ⟨_, hexec, fun n hn => ?_, ?_, fun pf' k' hne => writeWord_word_of_ne hstore hne (write.merge k old), rfl⟩
  · exact (congrArg (fun w : StoreWord => byteOfWord w.bits n) hself).trans (byteOfWord_merge write k old hn)
  · exact congrArg StoreWord.diff hself

end

end Sys2Proof.Machine
end

-- ==== The completion of a COPY job ====
section
/-! PROOFS. What a COPY job's completion leaves, and the answer or the notice it makes (R70, R76, R88). -/

namespace Sys2Proof.Machine

section
variable {s : State}

theorem zeroedEntry_eq (s : State) (slot : Slot) (page : LP) : s.zeroedEntry slot page =
    decide (∃ e ∈ (s.session slot).shadows, e.page = page ∧ e.zeroed = true) := by
  rw [Bool.eq_iff_iff]
  simp [State.zeroedEntry]

/-- The state after a COPY job was completed and before its report: the job left, its source is unpinned, its session IDLE. -/
def State.jobDone (s : State) (slot : Slot) (source : PF) (rest : List Job) : State :=
  (State.setFrame { s with jobs := rest } source { s.frame source with pins := (s.frame source).pins - 1 }).setSession slot
    { s.session slot with activity := .idle }

/-- The completion of a COPY job whose source is not HELD, for a session with a port: a WRITE in service is answered, a
granted write told. -/
theorem completeJob_copy {slot : Slot} {source : PF} {write : PendingWrite} {origin : Origin} {page : LP} {target : PF}
    {progress : Progress} {job : Job} {rest : List Job} {p : PortId} (hport : (s.session slot).port = some p)
    (hheld : (s.frame source).state ≠ .held) (hjobs : s.jobs = job :: rest) :
    (origin = .inService → completeJob ⟨.copy slot source write origin, page, target, progress⟩ slot origin s =
      respond p (.writeOk true (s.zeroedEntry slot page)) (s.jobDone slot source rest)) ∧
    (origin = .granted → completeJob ⟨.copy slot source write origin, page, target, progress⟩ slot origin s =
      queueNotice p (.writeDone (s.handle slot) true (s.zeroedEntry slot page)) (s.jobDone slot source rest)) := by
  have hrest : s.jobs.tail = rest := by rw [hjobs]; rfl
  have hunpin := unpinFrame_of_not_held (pf := source) (s := { s with jobs := rest }) hheld
  have hdone : modifySession slot (fun r => { r with activity := .idle }) (unpinFrame source { s with jobs := rest }) =
      s.jobDone slot source rest := by
    rw [hunpin]
    rfl
  have hport' : ((s.jobDone slot source rest).session slot).port = some p := by
    rw [State.jobDone, State.setSession_session_self]
    exact hport
  have hzeroed : (s.jobDone slot source rest).zeroedEntry slot page = s.zeroedEntry slot page := by
    rw [State.zeroedEntry, State.jobDone, State.setSession_session_self]
    rfl
  have hhandle : (s.jobDone slot source rest).handle slot = s.handle slot := by
    rw [State.handle, State.jobDone, State.setSession_session_self]
    rfl
  constructor
  · rintro rfl
    simp only [completeJob, Job.source?, hrest, hdone, hport', hzeroed]
  · rintro rfl
    simp only [completeJob, Job.source?, hrest, hdone, hport', hzeroed, hhandle]

/-- The end of an event that queued a notice, where no page is listed and no port has a request to take. -/
theorem endEvent_queueNotice (hr : s.relocations = []) (hq : s.QueueLaw) (p : PortId) (body : NoticeBody) :
    endEvent (queueNotice p body s) = queueNotice p body s :=
  endEvent_of_unlisted (by simpa using hr) ((queueNotice_background s p body).queueLaw hq)

/-- A notice that finds room, written out (R146, R147). -/
theorem queueNotice_of_room {p : PortId} (h : (s.port p).notices.length < 8) (body : NoticeBody) :
    queueNotice p body s = s.setPort p
      { s.port p with
        notices := (s.port p).notices ++ [⟨body, (s.port p).overrun⟩]
        overrun := false
        attn := (s.settings.respMask[p] && !(s.port p).responses.isEmpty) || s.settings.noteMask[p] } := by
  have hroom : (s.port p).notices.length < Config.noticeCapacity := h
  have hne : ∀ (l : List Notice) (x : Notice), (l ++ [x]).isEmpty = false := fun l x => by cases l <;> rfl
  simp [queueNotice, hroom, PortRec.evalAttn, attnWanted, hne]

/-- A notice that finds the queue full is dropped, and the overrun flag set (R147). -/
theorem queueNotice_of_full {p : PortId} (h : 8 ≤ (s.port p).notices.length) (body : NoticeBody) :
    queueNotice p body s = s.setPort p { s.port p with overrun := true } :=
  if_neg (Nat.not_lt.mpr h)

end

/-- Settles O46: the completion is the updates of `jobDone` and its report, and nothing follows. -/
theorem jobCompletionReports : Obligations.JobCompletionReports := by
  intro slot source write origin page target rest p s hjobs hlist hq hreq hport hmapped zeroed done
  have hexec : exec .jobCompletion s =
      .next (endEvent (completeJob ⟨.copy slot source write origin, page, target, .place []⟩ slot origin s)) := by
    simp only [exec, execJobCompletion, hjobs]
  have hzeroed : s.zeroedEntry slot page = zeroed := zeroedEntry_eq s slot page
  obtain ⟨hanswer, htell⟩ := completeJob_copy (write := write) (origin := origin) (page := page) (target := target)
    (progress := .place []) hport (by rw [hmapped]; nofun) hjobs
  refine ⟨fun r session ho hserv => ?_, fun ho hroom => ?_, fun ho hfull => ?_⟩
  · have hserv' : ((s.jobDone slot source rest).port p).inService = some ⟨r, session, .copying⟩ := hserv
    have hquiet : (s.jobDone slot source rest).Quiet := ⟨relocationDue_nil hlist, hq⟩
    rw [hexec, hanswer ho, respond_eq_replied hserv', endEvent_replied hquiet hreq, hzeroed]
    rfl
  · rw [hexec, htell ho, endEvent_queueNotice (s := s.jobDone slot source rest) hlist hq,
      queueNotice_of_room (s := s.jobDone slot source rest) hroom, hzeroed]
    rfl
  · rw [hexec, htell ho, endEvent_queueNotice (s := s.jobDone slot source rest) hlist hq,
      queueNotice_of_full (s := s.jobDone slot source rest) hfull]
    rfl

end Sys2Proof.Machine
end

-- ==== The scrub visit and the end of a scrub read ====
section
/-! PROOFS. The frame a scrub visit takes, and the examination at the end of its read (R137 to R140). -/

namespace Sys2Proof.Machine

section
variable {s : State}

/-- The state after a scrub visit took a frame. -/
def State.visited (s : State) (pf : PF) : State :=
  { s.setFrame pf { s.frame pf with pins := (s.frame pf).pins + 1 } with
    timer := none, cursor := pf + 1, scrub := some ⟨pf, 0⟩ }

theorem framesFrom_length (cursor : PF) : (framesFrom cursor).length = 512 := by
  rw [framesFrom, List.length_map, List.length_finRange]

/-- The frames from the cursor in their order. -/
theorem framesFrom_getElem (cursor : PF) (i : Nat) (h : i < (framesFrom cursor).length) :
    (framesFrom cursor)[i] = cursor + Fin.ofNat 512 i := by
  have hi : i < 512 := (framesFrom_length cursor).symm ▸ h
  have hix : (List.finRange 512)[i]'(by rw [List.length_finRange]; exact hi) = Fin.ofNat 512 i := by
    refine Fin.ext ?_
    rw [List.getElem_finRange, Fin.val_ofNat, Nat.mod_eq_of_lt hi]
    rfl
  simp only [framesFrom, List.getElem_map, hix]

/-- A visit takes the frame that n frames from the cursor pass over, where none of those is eligible. -/
theorem visitFrame_eq {n : Nat} (hn : n < 512) (hbefore : ∀ i < n, scrubEligible s (s.cursor + Fin.ofNat 512 i) = false)
    (hat : scrubEligible s (s.cursor + Fin.ofNat 512 n) = true) :
    visitFrame s = s.visited (s.cursor + Fin.ofNat 512 n) := by
  have hfind : (framesFrom s.cursor).find? (scrubEligible s) = some (s.cursor + Fin.ofNat 512 n) := by
    refine List.find?_eq_some_iff_getElem.mpr
      ⟨hat, n, (framesFrom_length s.cursor).symm ▸ hn, framesFrom_getElem .., fun j hj => ?_⟩
    rw [framesFrom_getElem, hbefore j hj]
    rfl
  unfold visitFrame
  rw [hfind]
  rfl

/-- Where every slot is FREE a tick lowers no budget and expires no session. -/
theorem lowerBudgets_of_free (h : ∀ slot, (s.session slot).state = .free) : lowerBudgets s = s := by
  have hsessions : (s.sessions.map fun r => if r.state = .free then r else { r with budget := r.budget - 1 }) =
      s.sessions := by
    refine Vector.ext fun i hi => ?_
    rw [Vector.getElem_map]
    exact if_pos (h ⟨i, hi⟩)
  simp only [lowerBudgets, hsessions]

theorem expireSessions_of_free (h : ∀ slot, (s.session slot).state = .free) : expireSessions s = s := by
  have hl : ∀ l : List Slot, l.foldl (fun t slot => if (t.session slot).state ≠ .free ∧ (t.session slot).budget = 0 then
      abortSession slot .expired t else t) s = s := fun l => by
    induction l with
    | nil => rfl
    | cons slot l ih =>
      rw [List.foldl_cons, if_neg fun hx => hx.1 (h slot)]
      exact ih
  exact hl _

end

/-- Settles O49: both commands come to one visit, which takes the frame found. -/
theorem scrubVisitTakesNextFrame : Obligations.ScrubVisitTakesNextFrame := by
  rintro _ n s hscrub hbefore hn rfl hat visited
  have hvisit := visitFrame_eq hn hbefore hat
  refine ⟨fun htimer => ?_, fun htimer hfree hlist hq => ?_⟩
  · simp only [exec, execScrubVisit]
    rw [if_pos ⟨htimer, hscrub⟩, hvisit]
    rfl
  · have htick : tickTimer s = s.visited (s.cursor + Fin.ofNat 512 n) := by
      simp only [tickTimer, htimer]
      rw [if_pos (Nat.le_refl 1), hvisit]
    simp only [exec, execTick, lowerBudgets_of_free hfree, expireSessions_of_free hfree, htick]
    exact congrArg Host.Outcome.next (endEvent_of_unlisted hlist hq)

/-! ### The examination -/

section
variable {s : State} {pf : PF}

/-- With an empty pool and no request to take nothing follows an event. -/
theorem endEvent_of_empty (hp : s.pool = []) (hq : s.QueueLaw) : endEvent s = s := by
  rw [endEvent, startRelocation_of_empty hp, settle_of_queueLaw hq]

/-- What an examination makes of the relocation list. -/
theorem examineFrame_relocations_mapped {page : LP} (hs : (s.frame pf).state = .mapped)
    (ho : (s.frame pf).owner = some (.page page)) : (examineFrame pf s).relocations =
      if s.settings.retireThreshold ≤ (s.frame pf).corrected ∧ (s.entry page).condition = .normal ∧
        page ∉ s.relocations ∧ s.relocations.length < 4 then s.relocations ++ [page] else s.relocations := by
  simp only [examineFrame, hs, ho]
  by_cases hlt : (s.frame pf).corrected < s.settings.retireThreshold
  · rw [if_pos hlt, if_neg fun h => Nat.not_le.mpr hlt h.1]
  · rw [if_neg hlt]
    by_cases hc : (s.entry page).condition = .normal ∧ ¬ page ∈ s.relocations ∧
        s.relocations.length < Config.relocationCapacity
    · rw [if_pos hc, if_pos ⟨Nat.not_lt.mp hlt, hc⟩]
    · rw [if_neg hc, if_neg fun h => hc h.2]

theorem examineFrame_relocations_shadow (hs : (s.frame pf).state = .shadow) :
    (examineFrame pf s).relocations = s.relocations := by
  simp only [examineFrame, hs]
  split <;> rfl

/-- An examination changes a list and, in a SHADOW frame at the threshold, a flag. -/
theorem examineFrame_eq (hs : (s.frame pf).state = .mapped ∨ (s.frame pf).state = .shadow) :
    examineFrame pf s =
      { s.setFrame pf
          { s.frame pf with
            retireOnRelease := (s.frame pf).retireOnRelease || (decide ((s.frame pf).state = .shadow) &&
              decide (s.settings.retireThreshold ≤ (s.frame pf).corrected)) } with
        relocations := (examineFrame pf s).relocations } := by
  have hsame : s.setFrame pf { s.frame pf with retireOnRelease := (s.frame pf).retireOnRelease } = s :=
    State.setFrame_same ..
  rcases hs with hs | hs
  · have hflag : ((s.frame pf).retireOnRelease || (decide ((s.frame pf).state = .shadow) &&
        decide (s.settings.retireThreshold ≤ (s.frame pf).corrected))) = (s.frame pf).retireOnRelease := by simp [hs]
    rw [hflag, hsame]
    simp only [examineFrame, hs]
    split
    · rfl
    · split
      · split <;> rfl
      · next h => cases h
      · rfl
  · by_cases hlt : (s.frame pf).corrected < s.settings.retireThreshold
    · have hflag : ((s.frame pf).retireOnRelease || (decide ((s.frame pf).state = .shadow) &&
          decide (s.settings.retireThreshold ≤ (s.frame pf).corrected))) = (s.frame pf).retireOnRelease := by
        simp [Nat.not_le.mpr hlt]
      rw [hflag, hsame, examineFrame, if_pos hlt]
    · have hflag : ((s.frame pf).retireOnRelease || (decide ((s.frame pf).state = .shadow) &&
          decide (s.settings.retireThreshold ≤ (s.frame pf).corrected))) = true := by
        simp [hs, Nat.not_lt.mp hlt]
      have hexamine : examineFrame pf s = flagFrame pf s := by simp only [examineFrame, if_neg hlt, hs]
      rw [hflag, hexamine]
      rfl

end

/-- Settles O50: the pin goes, the frame is examined, the timer restarted, and an empty pool lets nothing follow. -/
theorem scrubReadEndExamines : Obligations.ScrubReadEndExamines := by
  intro pf s hscrub hpool hq hs
  obtain ⟨u, hu⟩ : ∃ u : State, u = State.setFrame { s with scrub := none } pf
    { s.frame pf with pins := (s.frame pf).pins - 1 } := ⟨_, rfl⟩
  have hframe : u.frame pf = { s.frame pf with pins := (s.frame pf).pins - 1 } := by rw [hu, State.setFrame_frame_self]
  have hheld : (s.frame pf).state ≠ .held := by rcases hs with hs | hs <;> rw [hs] <;> nofun
  have hunpin : unpinFrame pf { s with scrub := none } = u := by
    rw [hu]
    exact unpinFrame_of_not_held (s := { s with scrub := none }) hheld
  have hexamine := examineFrame_eq (s := u) (pf := pf) (by rw [hframe]; exact hs)
  have hpool' : (restartTimer (examineFrame pf u)).pool = [] := by
    rw [hexamine, hu]
    exact hpool
  have hq' : (restartTimer (examineFrame pf u)).QueueLaw := by
    rw [hexamine, hu]
    exact hq
  have hexec : exec .scrubReadEnd s = .next (restartTimer (examineFrame pf u)) := by
    have hend : endScrub pf s = restartTimer (examineFrame pf u) := by rw [endScrub, hunpin]
    simp only [exec, execScrubReadEnd, hscrub, Nat.lt_irrefl, if_false, hend, endEvent_of_empty hpool' hq']
  have hframes : ∀ q, (restartTimer (examineFrame pf u)).frame q =
      if q = pf then { u.frame pf with
        retireOnRelease := (u.frame pf).retireOnRelease || (decide ((u.frame pf).state = .shadow) &&
          decide (u.settings.retireThreshold ≤ (u.frame pf).corrected)) } else u.frame q := fun q => by
    rw [hexamine]
    exact State.setFrame_frame ..
  refine ⟨_, hexec, fun page hmapped howner => ?_, fun hshadow => ?_, ?_, fun other hne => ?_, ?_⟩
  · refine (examineFrame_relocations_mapped (by rw [hframe]; exact hmapped) (by rw [hframe]; exact howner)).trans ?_
    rw [hframe, hu]
    rfl
  · refine (examineFrame_relocations_shadow (by rw [hframe]; exact hshadow)).trans ?_
    rw [hu]
    rfl
  · rw [hframes, if_pos rfl, hframe, hu]
    rfl
  · rw [hframes, if_neg hne, hu]
    exact State.setFrame_frame_of_ne _ _ hne
  · rw [hexamine, hu]
    rfl

end Sys2Proof.Machine
end

-- ==== A claim taken, and the two paths of a WRITE ====
section
/-! PROOFS. What a first write and a grant take in one event, record by record (R65, R85); and the path a WRITE takes (R59,
R60). -/

namespace Sys2Proof.Machine

/-- The job that fills a shadow: a COPY from the page's frame, a ZERO for a POISONED page (R65). -/
def State.fillJob (s : State) (slot : Slot) (page : LP) (write : PendingWrite) (origin : Origin) (pf : PF) : Job :=
  if (s.entry page).condition = .poisoned then ⟨.zero slot write origin, page, pf, .fillWrite 0 0⟩
  else ⟨.copy slot (s.entry page).frame write origin, page, pf, .fillRead 0⟩

/-- The state after a session took a page's claim with the frame at the pool head: the claim, the shadow, the job, its source
pinned (R65, R85). -/
def State.taken (s : State) (slot : Slot) (page : LP) (write : PendingWrite) (origin : Origin) (pf : PF) (rest : List PF) :
    State :=
  if (s.entry page).condition = .poisoned then
    queueJob (.zero slot write origin) page pf (claimed slot page pf rest s)
  else
    pinFrame (s.entry page).frame
      (queueJob (.copy slot (s.entry page).frame write origin) page pf (claimed slot page pf rest s))

section
variable {s : State} {slot : Slot} {page : LP} {write : PendingWrite} {origin : Origin} {pf : PF} {rest : List PF}

theorem takeClaim_of_pool (h : s.pool = pf :: rest) :
    takeClaim slot page write origin s = some (s.taken slot page write origin pf rest) := by
  rw [takeClaim_eq, h]
  rfl

theorem takeClaim_of_empty (h : s.pool = []) : takeClaim slot page write origin s = none := by
  rw [takeClaim_eq, h]

/-- The fields that taking a claim leaves. -/
theorem taken_books : s.taken slot page write origin pf rest =
    { s with
      map := (s.taken slot page write origin pf rest).map, frames := (s.taken slot page write origin pf rest).frames,
      pool := rest, sessions := (s.taken slot page write origin pf rest).sessions,
      jobs := (s.taken slot page write origin pf rest).jobs } := by
  simp only [State.taken]
  split <;> rfl

theorem taken_entry (q : LP) : (s.taken slot page write origin pf rest).entry q =
    if q = page then { s.entry page with claim := some slot } else s.entry q := by
  have hclaimed : (claimed slot page pf rest s).entry q =
      if q = page then { s.entry page with claim := some slot } else s.entry q := State.setEntry_entry ..
  rw [← hclaimed]
  simp only [State.taken]
  split <;> rfl

theorem taken_session (x : Slot) : (s.taken slot page write origin pf rest).session x =
    if x = slot then
      { s.session slot with
        shadows := (s.session slot).shadows ++ [⟨page, pf, decide ((s.entry page).condition = .poisoned)⟩]
        activity := .copying }
    else s.session x := by
  have hclaimed : (claimed slot page pf rest s).session x =
      if x = slot then
        { s.session slot with
          shadows := (s.session slot).shadows ++ [⟨page, pf, decide ((s.entry page).condition = .poisoned)⟩]
          activity := .copying }
      else s.session x := State.setSession_session ..
  rw [← hclaimed]
  simp only [State.taken]
  split <;> rfl

theorem taken_jobs : (s.taken slot page write origin pf rest).jobs = s.jobs ++ [s.fillJob slot page write origin pf] := by
  simp only [State.taken, State.fillJob]
  split <;> rfl

theorem claimed_frame (q : PF) : (claimed slot page pf rest s).frame q =
    if q = pf then { s.frame pf with state := .shadow, owner := some (.session slot) } else s.frame q :=
  State.setFrame_frame ..

/-- The frame taken is the session's shadow. -/
theorem taken_frame_self (hne : (s.entry page).frame ≠ pf) : (s.taken slot page write origin pf rest).frame pf =
    { s.frame pf with state := .shadow, owner := some (.session slot) } := by
  have hclaimed := claimed_frame (s := s) (slot := slot) (page := page) (pf := pf) (rest := rest) pf
  rw [if_pos rfl] at hclaimed
  simp only [State.taken]
  split
  · exact hclaimed
  · exact (State.setFrame_frame_of_ne _ _ hne.symm).trans hclaimed

/-- The page's frame is pinned by a COPY, and left by a ZERO. -/
theorem taken_frame_source (hne : (s.entry page).frame ≠ pf) :
    (s.taken slot page write origin pf rest).frame (s.entry page).frame =
      if (s.entry page).condition = .poisoned then s.frame (s.entry page).frame
      else { s.frame (s.entry page).frame with pins := (s.frame (s.entry page).frame).pins + 1 } := by
  have hclaimed := claimed_frame (s := s) (slot := slot) (page := page) (pf := pf) (rest := rest) (s.entry page).frame
  rw [if_neg hne] at hclaimed
  simp only [State.taken]
  split
  · exact hclaimed
  · rw [pinFrame, State.setFrame_frame_self]
    exact congrArg (fun f : FrameRec => { f with pins := f.pins + 1 }) hclaimed

theorem taken_frame_other {q : PF} (hq : q ≠ pf) (hs : q ≠ (s.entry page).frame) :
    (s.taken slot page write origin pf rest).frame q = s.frame q := by
  have hclaimed := claimed_frame (s := s) (slot := slot) (page := page) (pf := pf) (rest := rest) q
  rw [if_neg hq] at hclaimed
  simp only [State.taken]
  split
  · exact hclaimed
  · exact (State.setFrame_frame_of_ne _ _ hs).trans hclaimed

end

/-! ### A WRITE within bounds -/

section
variable {s : State} {p : PortId} {tag : Byte} {handle : Handle} {address : BitVec 16} {flags : Byte} {data : List Byte}
  {slot : Slot}

/-- A WRITE that passes its first five checks is placed in the page's shadow where the session has one, and is a first write
where it has none. -/
theorem exec_write (hp : s.PortFree p) (howns : s.Owns p handle slot) (hopen : (s.session slot).state = .opened)
    (hidle : (s.session slot).activity = .idle) (hdata : data ≠ []) (hlen : data.length ≤ 64)
    (hpage : address.toNat % 256 + data.length ≤ 256) :
    exec (.write p tag handle address flags data) s = .next (settleUpTo s.queued
      (match (s.session slot).shadows.find? fun e => e.page = Fin.ofNat 256 (address.toNat / 256) with
        | some e => s.serving p ⟨tag, .write handle address flags data⟩ (some slot)
            (.placing e.frame ⟨address.toNat % 256, data⟩ (PendingWrite.covered ⟨address.toNat % 256, data⟩) e.zeroed)
        | none => firstWrite p slot (Fin.ofNat 256 (address.toNat / 256)) address (flags.getLsb 0) data
            (s.serving p ⟨tag, .write handle address flags data⟩ none .atOnce))) := by
  have hw : (RequestOp.write handle address flags data).wellFormed = true := decide_eq_true hlen
  refine congrArg Host.Outcome.next ((sendRequest_of_free hp hw).trans (congrArg (settleUpTo s.queued) ?_))
  generalize hr : (⟨tag, .write handle address flags data⟩ : Request) = r
  have hcheck : checkHandle p handle true (s.serving p r none .atOnce) = .ok slot :=
    checkHandle_of_owns (s := s.serving p r none .atOnce) howns fun _ => hopen
  have hbounds : ¬ (data.length = 0 ∨ Config.writeMax < data.length ∨ 256 < address.toNat % 256 + data.length) := by
    have hpos : data.length ≠ 0 := fun h => hdata (List.length_eq_zero_iff.mp h)
    simp only [Config.writeMax]
    omega
  have hserv : ∀ stage, setService p (some slot) stage (s.serving p r none .atOnce) = s.serving p r (some slot) stage :=
    fun stage => by simp [setService, State.serving]
  subst hr
  simp only [serve, serveWrite, hcheck, if_neg hbounds, State.serving_session, hidle, ne_eq, not_true_eq_false, if_false]
  split
  · next h => rw [h, hserv]
  · next h => rw [h]

/-- The state after a first write was taken, its WRITE in service waiting for the job. -/
def State.wrote (s : State) (p : PortId) (r : Request) (slot : Slot) (page : LP) (write : PendingWrite) (pf : PF)
    (rest : List PF) : State :=
  (s.taken slot page write .inService pf rest).serving p r (some slot) .copying

/-- A first write to an unclaimed page with room in the session's shadow list and a frame in the pool. -/
theorem firstWrite_takes {r : Request} {page : LP} {wait : Bool} {pf : PF} {rest : List PF}
    (hroom : (s.session slot).shadows.length < 32) (hclaim : (s.entry page).claim = none) (hpool : s.pool = pf :: rest) :
    firstWrite p slot page address wait data (s.serving p r none .atOnce) =
      s.wrote p r slot page ⟨address.toNat % 256, data⟩ pf rest := by
  have htaken : takeClaim slot page ⟨address.toNat % 256, data⟩ .inService (s.serving p r none .atOnce) =
      some ((s.serving p r none .atOnce).taken slot page ⟨address.toNat % 256, data⟩ .inService pf rest) :=
    takeClaim_of_pool (s := s.serving p r none .atOnce) hpool
  have hcomm : (s.serving p r none .atOnce).taken slot page ⟨address.toNat % 256, data⟩ .inService pf rest =
      (s.taken slot page ⟨address.toNat % 256, data⟩ .inService pf rest).serving p r none .atOnce := by
    have hsame : ((s.serving p r none .atOnce).entry page).condition = (s.entry page).condition := rfl
    by_cases hc : (s.entry page).condition = .poisoned
    · rw [State.taken, State.taken, if_pos (hsame.trans hc), if_pos hc]
      rfl
    · rw [State.taken, State.taken, if_neg (hsame ▸ hc), if_neg hc]
      rfl
  have hroom' : ¬ Config.shadowCapacity ≤ (s.session slot).shadows.length := Nat.not_le.mpr hroom
  have hclaim' : ((s.serving p r none .atOnce).entry page).claim = none := hclaim
  simp only [firstWrite, State.serving_session, if_neg hroom', hclaim', htaken, hcomm]
  simp [setService, State.wrote, State.serving]

theorem taken_ports (page : LP) (write : PendingWrite) (origin : Origin) (pf : PF) (rest : List PF) (q : PortId) :
    (s.taken slot page write origin pf rest).port q = s.port q := by
  rw [taken_books]
  rfl

theorem wrote_port (r : Request) (page : LP) (write : PendingWrite) (pf : PF) (rest : List PF) (q : PortId) :
    (s.wrote p r slot page write pf rest).port q = (s.serving p r (some slot) .copying).port q := by
  simp only [State.wrote, State.serving, State.setPort_port, taken_ports]

end

/-- Settles O29: the shadowed path replaces the stage of the WRITE alone; the first-write path is the claim taken. -/
theorem writeTakesItsPath : Obligations.WriteTakesItsPath := by
  intro p tag handle address flags data slot s hp howns hopen hidle hdata hlen hpage r page write
  have hexec := exec_write (tag := tag) (flags := flags) hp howns hopen hidle hdata hlen hpage
  refine ⟨fun before e after hshadows he hbefore => ?_, fun pf rest hnone hroom hclaim hpool hne => ?_⟩
  · have hfind : ((s.session slot).shadows.find? fun e => e.page = page) = some e := by
      rw [hshadows]
      refine List.find?_eq_some_iff_append.mpr ⟨decide_eq_true he, before, after, rfl, fun other ho => ?_⟩
      simpa using hbefore other ho
    rw [hexec, hfind]
    exact congrArg Host.Outcome.next (settleUpTo_of_queueLaw (serving_queueLaw hp _ _ _) _)
  · have hfind : ((s.session slot).shadows.find? fun e => e.page = page) = none :=
      List.find?_eq_none.mpr fun e he => by simpa using hnone e he
    have hlaw : (s.wrote p r slot page write pf rest).QueueLaw := fun q => by
      rw [wrote_port]
      exact serving_queueLaw hp r (some slot) .copying q
    rw [hfind] at hexec
    replace hexec := hexec.trans (congrArg (fun u => Host.Outcome.next (settleUpTo s.queued u))
      (firstWrite_takes (r := r) hroom hclaim hpool))
    rw [settleUpTo_of_queueLaw hlaw] at hexec
    have hframe : ∀ q, (s.wrote p r slot page write pf rest).frame q =
      (s.taken slot page write .inService pf rest).frame q := fun _ => rfl
    have hjobs : (s.wrote p r slot page write pf rest).jobs = s.jobs ++ [s.fillJob slot page write .inService pf] :=
      taken_jobs
    have hentry : ∀ q, (s.wrote p r slot page write pf rest).entry q =
      if q = page then { s.entry page with claim := some slot } else s.entry q := taken_entry
    have hsession := taken_session (s := s) (slot := slot) (page := page) (write := write) (origin := .inService) (pf := pf)
      (rest := rest)
    refine ⟨_, hexec, ?_, wrote_port .., fun q hq => ?_, ?_, fun other ho => ?_, taken_frame_self hne, ?_,
      fun other ho => ?_, fun hnormal => ⟨?_, ?_, fun other h1 h2 => taken_frame_other h1 h2⟩,
      fun hpoisoned => ⟨?_, fun other h1 => ?_⟩⟩
    · rw [State.wrote, taken_books]
      rfl
    · rw [wrote_port, State.serving, State.setPort_port_of_ne s _ hq]
    · rw [hentry, if_pos rfl]
    · rw [hentry, if_neg ho]
    · exact (hsession slot).trans (if_pos rfl)
    · exact (hsession other).trans (if_neg ho)
    · rw [hjobs, State.fillJob, if_neg (by rw [hnormal]; nofun)]
    · rw [hframe, taken_frame_source hne, if_neg (by rw [hnormal]; nofun)]
    · rw [hjobs, State.fillJob, if_pos hpoisoned]
    · by_cases h2 : other = (s.entry page).frame
      · rw [h2, hframe, taken_frame_source hne, if_pos hpoisoned]
      · exact taken_frame_other h1 h2

end Sys2Proof.Machine
end

-- ==== The ABORT of a session in no group ====
section
/-! PROOFS. What an ABORT withdraws (R48): shadows dropped one after another, a released claim granted to the oldest waiter
(R85), or refused to every waiter in turn at an empty pool (R87); and the answer of the ABORT (R50, R53). -/

namespace Sys2Proof.Machine

section
variable {s : State} {slot : Slot}

/-! ### Shadows dropped -/

/-- A shadow whose frame is unpinned and unflagged goes to the pool tail, its page unclaimed. -/
theorem dropShadow_frees {e : ShadowEntry} (hs : (s.frame e.frame).state = .shadow) (hp : (s.frame e.frame).pins = 0)
    (hf : (s.frame e.frame).retireOnRelease = false) : dropShadow e s =
      { (s.setEntry e.page { s.entry e.page with claim := none }).setFrame e.frame
          { s.frame e.frame with state := .free, owner := none } with pool := s.pool ++ [e.frame] } := by
  have hr : (s.frame e.frame).state.releasable = true := by rw [hs]; rfl
  exact releaseFrame_frees (s := s.setEntry e.page { s.entry e.page with claim := none }) hr hp hf

/-- A shadow whose frame is pinned is HELD, its page unclaimed. -/
theorem dropShadow_holds {e : ShadowEntry} (hs : (s.frame e.frame).state = .shadow) (hp : 0 < (s.frame e.frame).pins) :
    dropShadow e s = (s.setEntry e.page { s.entry e.page with claim := none }).setFrame e.frame
      { s.frame e.frame with state := .held, owner := none } := by
  have hr : (s.frame e.frame).state.releasable = true := by rw [hs]; rfl
  exact (if_pos hr).trans (if_pos hp)

/-- What became of the shadows of a list dropped one after another, where each frame was unpinned and unflagged. -/
structure State.DropsTo (s t : State) (l : List ShadowEntry) : Prop where
  pool    : t.pool = s.pool ++ l.map ShadowEntry.frame
  freed   : ∀ e ∈ l, (t.frame e.frame).state = .free ∧ (t.frame e.frame).owner = none
  frames  : ∀ pf, (∀ e ∈ l, e.frame ≠ pf) → t.frame pf = s.frame pf
  entries : ∀ page, (∀ e ∈ l, e.page ≠ page) → t.entry page = s.entry page
  notices : ∀ q, (t.port q).notices = (s.port q).notices
  log     : t.log = s.log

theorem dropShadows_drop (l : List ShadowEntry) (hnodup : (l.map ShadowEntry.frame).Nodup)
    (hl : ∀ e ∈ l, (s.frame e.frame).state = .shadow ∧ (s.frame e.frame).pins = 0 ∧
      (s.frame e.frame).retireOnRelease = false) : s.DropsTo (l.foldl (fun t e => dropShadow e t) s) l := by
  induction l generalizing s with
  | nil => exact ⟨(List.append_nil _).symm, nofun, fun _ _ => rfl, fun _ _ => rfl, fun _ => rfl, rfl⟩
  | cons e l ih =>
    obtain ⟨hs, hp, hf⟩ := hl e (List.mem_cons_self ..)
    obtain ⟨u, hu⟩ : ∃ u, u = dropShadow e s := ⟨_, rfl⟩
    have hdrop := hu.trans (dropShadow_frees hs hp hf)
    have hself : u.frame e.frame = { s.frame e.frame with state := .free, owner := none } := by
      rw [hdrop]
      exact State.setFrame_frame_self ..
    have hother : ∀ pf, e.frame ≠ pf → u.frame pf = s.frame pf := fun pf h => by
      rw [hdrop]
      exact State.setFrame_frame_of_ne _ _ h.symm
    have hentry : ∀ page, e.page ≠ page → u.entry page = s.entry page := fun page h => by
      rw [hdrop]
      exact State.setEntry_entry_of_ne _ _ h.symm
    obtain ⟨hnew, hnodup⟩ := List.nodup_cons.mp hnodup
    have hdistinct : ∀ x ∈ l, e.frame ≠ x.frame := fun x hx h => hnew (h ▸ List.mem_map_of_mem hx)
    have hrest := ih (s := u) hnodup fun x hx => by
      rw [hother _ (hdistinct x hx)]
      exact hl x (List.mem_cons_of_mem _ hx)
    rw [List.foldl_cons, ← hu]
    refine ⟨?_, fun x hx => ?_, fun pf h => ?_, fun page h => ?_, fun q => ?_, ?_⟩
    · rw [hrest.pool, hdrop, List.map_cons, List.append_assoc]
      rfl
    · rcases List.mem_cons.mp hx with rfl | hx
      · rw [hrest.frames _ fun y hy h => hdistinct y hy h.symm, hself]
        exact ⟨rfl, rfl⟩
      · exact hrest.freed x hx
    · obtain ⟨hhead, htail⟩ := List.forall_mem_cons.mp h
      rw [hrest.frames pf htail, hother pf hhead]
    · obtain ⟨hhead, htail⟩ := List.forall_mem_cons.mp h
      rw [hrest.entries page htail, hentry page hhead]
    · rw [hrest.notices, hdrop]
      rfl
    · rw [hrest.log, hdrop]
      rfl

/-! ### A released claim granted -/

/-- The first entry of a page in the wait list is its oldest waiter. -/
theorem oldestWaiter_of {page : LP} {before after : List WaitEntry} {w : Slot}
    (h : s.waits = before ++ ⟨w, page⟩ :: after) (hb : ∀ b ∈ before, b.page ≠ page) : oldestWaiter page s = some w := by
  rw [oldestWaiter, h, List.find?_append, List.find?_eq_none.mpr fun b hm => by simpa using hb b hm]
  simp

/-- The entries of the other slots, where no other entry is the slot's. -/
theorem filter_slot_ne {before after : List WaitEntry} {w : Slot} {page : LP} (h : ∀ b ∈ before ++ after, b.slot ≠ w) :
    (before ++ ⟨w, page⟩ :: after).filter (fun e => e.slot ≠ w) = before ++ after := by
  rw [List.filter_append, List.filter_cons_of_neg (by simp), ← List.filter_append]
  exact List.filter_eq_self.mpr fun b hb => decide_eq_true (h b hb)

/-- A claim released with a frame in the pool goes to the oldest waiter. -/
theorem offerClaim_grants {page : LP} {before after : List WaitEntry} {w : Slot} {pf : PF} {rest : List PF}
    (h : s.waits = before ++ ⟨w, page⟩ :: after) (hb : ∀ b ∈ before, b.page ≠ page) (hpool : s.pool = pf :: rest) :
    offerClaim page s = (endWait w s).taken w page (s.parkedWrite w) .granted pf rest := by
  have hlen : s.waits.length = before.length + after.length + 1 := by simp [h]; omega
  have htake : takeClaim w page (s.parkedWrite w) .granted (endWait w s) =
      some ((endWait w s).taken w page (s.parkedWrite w) .granted pf rest) := takeClaim_of_pool (s := endWait w s) hpool
  simp only [offerClaim, hlen, offerDown, oldestWaiter_of h hb, htake]

theorem endWait_session_of_ne {w x : Slot} (h : x ≠ w) : (endWait w s).session x = s.session x :=
  State.setSession_session_of_ne _ _ h

/-! ### A released claim refused at an empty pool -/

/-- A waiter fails with WRITE_FAILED(NO_PAGE) (R87). -/
def failWait (w : Slot) (s : State) : State :=
  noticeToOwner w (.writeFailed (s.handle w) .noPage) (endWait w s)

/-- The slots that wait for a page, oldest first. -/
def State.waiters (s : State) (page : LP) : List Slot := (s.waits.filter fun w => w.page = page).map WaitEntry.slot

/-- A failed wait changes the waits, the sessions and the ports alone. -/
theorem failWait_books (w : Slot) : failWait w s =
    { s with
      waits := s.waits.filter fun e => e.slot ≠ w
      sessions := (failWait w s).sessions
      ports := (failWait w s).ports } := by
  simp only [failWait, noticeToOwner]
  split
  · rfl
  · simp only [queueNotice]
    split <;> rfl

theorem failWait_waits (w : Slot) : (failWait w s).waits = s.waits.filter fun e => e.slot ≠ w := by
  rw [failWait_books]

theorem failWait_session (w x : Slot) : (failWait w s).session x =
    if x = w then { s.session w with activity := .idle, parked := none, waitPage := none } else s.session x := by
  have hend : (failWait w s).session x = (endWait w s).session x := by
    simp only [failWait, noticeToOwner]
    split
    · rfl
    · simp
  rw [hend]
  split
  · next h => rw [h, endWait_session]
  · next h => exact endWait_session_of_ne h

/-- The notices of a port with room, after one failed wait. -/
theorem failWait_notices (w : Slot) (q : PortId) (h : (s.session w).port = some q → (s.port q).notices.length < 8) :
    ((failWait w s).port q).notices.map Notice.body =
      (s.port q).notices.map Notice.body ++
        if (s.session w).port = some q then [.writeFailed (s.handle w) .noPage] else [] := by
  have hport : ((endWait w s).session w).port = (s.session w).port := by rw [endWait_session]
  have hsame : (endWait w s).port q = s.port q := rfl
  simp only [failWait, noticeToOwner, hport]
  cases hp : (s.session w).port with
  | none => simp [hsame]
  | some o =>
    by_cases ho : o = q
    · subst ho
      simp only [queueNotice_of_room (s := endWait w s) (h hp), State.setPort_port_self, hsame, if_true, List.map_append,
        List.map_singleton]
    · have hother : ((queueNotice o (.writeFailed (s.handle w) .noPage) (endWait w s)).port q) = s.port q := by
        simp only [queueNotice]
        split <;> exact State.setPort_port_of_ne _ _ (Ne.symm ho)
      simp [hother, ho]

/-- The waiters that fail, one after another. -/
def failWaits (l : List Slot) (s : State) : State := l.foldl (fun t w => failWait w t) s

theorem failWaits_books (l : List Slot) : failWaits l s =
    { s with
      waits := s.waits.filter fun e => e.slot ∉ l
      sessions := (failWaits l s).sessions
      ports := (failWaits l s).ports } := by
  induction l generalizing s with
  | nil => simp [failWaits]
  | cons w l ih =>
    have hstep : failWaits (w :: l) s = failWaits l (failWait w s) := rfl
    have hwaits : (failWait w s).waits.filter (fun e => e.slot ∉ l) = s.waits.filter fun e => e.slot ∉ w :: l := by
      rw [failWait_waits, List.filter_filter]
      exact List.filter_congr fun e _ => by simp [Bool.and_comm]
    rw [hstep, ih, hwaits, failWait_books]

theorem failWaits_session (l : List Slot) (x : Slot) : (failWaits l s).session x =
    if x ∈ l then { s.session x with activity := .idle, parked := none, waitPage := none } else s.session x := by
  induction l generalizing s with
  | nil => simp [failWaits]
  | cons w l ih =>
    have hstep : failWaits (w :: l) s = failWaits l (failWait w s) := rfl
    rw [hstep, ih, failWait_session]
    by_cases hx : x = w
    · subst hx
      simp
    · simp [hx]

/-- Each failed waiter of a port is told there, where its notices find room. -/
theorem failWaits_notices (l : List Slot) (hnodup : l.Nodup) (q : PortId)
    (hroom : (s.port q).notices.length + (l.filter fun w => (s.session w).port = some q).length ≤ 8) :
    ((failWaits l s).port q).notices.map Notice.body = (s.port q).notices.map Notice.body ++
      (l.filter fun w => (s.session w).port = some q).map fun w => .writeFailed (s.handle w) .noPage := by
  induction l generalizing s with
  | nil => simp [failWaits]
  | cons w l ih =>
    obtain ⟨hnew, hnodup⟩ := List.nodup_cons.mp hnodup
    have hstep : failWaits (w :: l) s = failWaits l (failWait w s) := rfl
    have hsession : ∀ x ∈ l, (failWait w s).session x = s.session x := fun x hx => by
      rw [failWait_session, if_neg fun h : x = w => hnew (h ▸ hx)]
    have hfilter : (l.filter fun x => ((failWait w s).session x).port = some q) =
        l.filter fun x => (s.session x).port = some q :=
      List.filter_congr fun x hx => by rw [hsession x hx]
    have hhandle : ∀ x ∈ l, (failWait w s).handle x = s.handle x := fun x hx => by
      rw [State.handle, State.handle, hsession x hx]
    have hone := failWait_notices (s := s) w q fun hp => by
      rw [List.filter_cons, if_pos (by simpa using hp), List.length_cons] at hroom
      omega
    have hlen := congrArg List.length hone
    rw [List.length_append, List.length_map, List.length_map] at hlen
    rw [hstep, ih hnodup, hone, hfilter, List.filter_cons]
    · have hmap : ((l.filter fun x => (s.session x).port = some q).map fun x =>
          NoticeBody.writeFailed ((failWait w s).handle x) .noPage) =
          (l.filter fun x => (s.session x).port = some q).map fun x => .writeFailed (s.handle x) .noPage :=
        List.map_congr_left fun x hx => by rw [hhandle x (List.mem_of_mem_filter hx)]
      rw [hmap]
      by_cases hp : (s.session w).port = some q <;> simp [hp]
    · rw [hfilter, hlen]
      by_cases hp : (s.session w).port = some q
      · simp only [hp, List.filter_cons, decide_true, if_true, List.length_cons, List.length_nil] at hroom ⊢
        omega
      · simp only [hp, List.filter_cons, decide_false, if_false, List.length_nil] at hroom ⊢
        simpa using hroom

/-- At an empty pool a page's waiters fail one after another. -/
theorem offerDown_fails {page : LP} {n : Nat} (hpool : s.pool = []) (hnodup : (s.waits.map WaitEntry.slot).Nodup)
    (hn : (s.waiters page).length ≤ n) : offerDown page n s = failWaits (s.waiters page) s := by
  induction n generalizing s with
  | zero =>
    rw [List.length_eq_zero_iff.mp (Nat.le_zero.mp hn)]
    rfl
  | succ n ih =>
    cases hfind : s.waits.find? fun e => e.page = page with
    | none =>
      have hnone : s.waiters page = [] := by
        rw [State.waiters, List.filter_eq_nil_iff.mpr fun w hw => List.find?_eq_none.mp hfind w hw, List.map_nil]
      rw [offerDown, oldestWaiter, hfind, hnone]
      rfl
    | some e =>
      obtain ⟨hpage, before, after, hwaits, hbefore⟩ := List.find?_eq_some_iff_append.mp hfind
      obtain ⟨w, own⟩ := e
      cases (of_decide_eq_true hpage : own = page)
      have htake : takeClaim w page (s.parkedWrite w) .granted (endWait w s) = none :=
        takeClaim_of_empty (s := endWait w s) hpool
      have hnot : w ∉ (before ++ after).map WaitEntry.slot := by
        rw [hwaits, (List.perm_middle.map _).nodup_iff, List.map_cons, List.nodup_cons] at hnodup
        exact hnodup.1
      have hnext : (failWait w s).waits = before ++ after := by
        rw [failWait_waits, hwaits]
        exact filter_slot_ne fun b hb h => hnot (h ▸ List.mem_map_of_mem hb)
      have hnil : before.filter (fun x => x.page = page) = [] :=
        List.filter_eq_nil_iff.mpr fun x hx => by simpa using hbefore x hx
      have hwaiters : s.waiters page = w :: (failWait w s).waiters page := by
        simp [State.waiters, hwaits, hnext, hnil]
      have hnodup' : ((failWait w s).waits.map WaitEntry.slot).Nodup := by
        rw [hnext]
        rw [hwaits, (List.perm_middle.map _).nodup_iff, List.map_cons, List.nodup_cons] at hnodup
        exact hnodup.2
      have hpool' : (failWait w s).pool = [] := by
        rw [failWait_books]
        exact hpool
      rw [hwaiters, List.length_cons] at hn
      have hrest := ih hpool' hnodup' (Nat.le_of_succ_le_succ hn)
      rw [offerDown, oldestWaiter_of hwaits fun x hx => by simpa using hbefore x hx, hwaiters]
      simp only [htake]
      exact hrest

/-- A claim released at an empty pool is refused to every waiter of its page. -/
theorem offerClaim_fails {page : LP} (hpool : s.pool = []) (hnodup : (s.waits.map WaitEntry.slot).Nodup) :
    offerClaim page s = failWaits (s.waiters page) s :=
  offerDown_fails hpool hnodup (by
    rw [State.waiters, List.length_map]
    exact List.length_filter_le ..)

/-- No slot waits twice: the entries left are those of the other pages. -/
theorem filter_not_waiters (page : LP) (hnodup : (s.waits.map WaitEntry.slot).Nodup) :
    s.waits.filter (fun e => e.slot ∉ s.waiters page) = s.waits.filter fun e => e.page ≠ page :=
  List.filter_congr fun e he => by
    have hiff : e.slot ∈ s.waiters page ↔ e.page = page := by
      refine ⟨fun h => ?_, fun h => List.mem_map_of_mem (List.mem_filter.mpr ⟨he, decide_eq_true h⟩)⟩
      obtain ⟨x, hx, hslot⟩ := List.mem_map.mp h
      obtain ⟨hx, hpage⟩ := List.mem_filter.mp hx
      rw [← List.inj_on_of_nodup_map hnodup hx he hslot]
      exact of_decide_eq_true hpage
    simp only [hiff, ne_eq]

/-! ### What is withdrawn of an idle session without a job -/

theorem cancelSessionJob_of_none (hj : ∀ j ∈ s.jobs, j.session? ≠ some slot) : cancelSessionJob slot s = s := by
  rw [cancelSessionJob, List.find?_eq_none.mpr fun j h => by simpa using hj j h]

theorem withdraw_of_idle (ha : (s.session slot).activity = .idle) (hj : ∀ j ∈ s.jobs, j.session? ≠ some slot)
    (l : List ShadowEntry) : withdraw slot l s =
      l.foldl (fun t e => offerClaim e.page t) (l.foldl (fun t e => dropShadow e t) s) := by
  have hwait : abortWait slot s = s := if_neg (by rw [ha]; nofun)
  rw [withdraw, cancelSessionJob_of_none hj, hwait]

/-- Where no slot waits, no claim is taken. -/
theorem offerClaims_of_no_waits (h : s.waits = []) (l : List ShadowEntry) :
    l.foldl (fun t e => offerClaim e.page t) s = s := by
  induction l with
  | nil => rfl
  | cons e l ih => rw [List.foldl_cons, offerClaim_of_no_waiter (by simp [h]), ih]

/-- With no writer waiting the shadows are dropped and nothing else is done. -/
theorem withdraw_drops (ha : (s.session slot).activity = .idle) (hj : ∀ j ∈ s.jobs, j.session? ≠ some slot)
    (hw : s.waits = []) (l : List ShadowEntry) :
    withdraw slot l s = l.foldl (fun t e => dropShadow e t) s := by
  rw [withdraw_of_idle ha hj]
  exact offerClaims_of_no_waits ((dropShadows_frame s l).2.trans hw) l

/-- What a single shadow's release leaves, where its page's oldest waiter takes the claim with the frame at the pool head. -/
structure State.GrantsTo (s t : State) (e : ShadowEntry) (w : Slot) (write : PendingWrite) (pf : PF) (rest : List PF)
    (waits : List WaitEntry) : Prop where
  claim    : t.entry e.page = { s.entry e.page with claim := some w }
  entries  : ∀ page, page ≠ e.page → t.entry page = s.entry page
  waits    : t.waits = waits
  pool     : t.pool = rest
  session  : t.session w =
    { s.session w with
      shadows := (s.session w).shadows ++ [⟨e.page, pf, decide ((s.entry e.page).condition = .poisoned)⟩]
      activity := .copying, parked := none, waitPage := none }
  shadow   : t.frame pf = { s.frame pf with state := .shadow, owner := some (.session w) }
  released : e.frame ≠ pf → t.frame e.frame = { s.frame e.frame with state := .free, owner := none }
  jobs     : t.jobs = s.jobs ++ [s.fillJob w e.page write .granted pf]
  source   : t.frame (s.entry e.page).frame =
    if (s.entry e.page).condition = .poisoned then s.frame (s.entry e.page).frame
    else { s.frame (s.entry e.page).frame with pins := (s.frame (s.entry e.page).frame).pins + 1 }
  others   : ∀ q, q ≠ pf → q ≠ e.frame → q ≠ (s.entry e.page).frame → t.frame q = s.frame q
  notices  : ∀ q, (t.port q).notices = (s.port q).notices
  log      : t.log = s.log

theorem withdraw_grants {e : ShadowEntry} {w : Slot} {parked : ParkedWrite} {pf : PF} {rest : List PF}
    {before after : List WaitEntry} (ha : (s.session slot).activity = .idle)
    (hj : ∀ j ∈ s.jobs, j.session? ≠ some slot) (hs : (s.frame e.frame).state = .shadow)
    (hp : (s.frame e.frame).pins = 0) (hf : (s.frame e.frame).retireOnRelease = false)
    (hwaits : s.waits = before ++ ⟨w, e.page⟩ :: after) (hbefore : ∀ b ∈ before, b.page ≠ e.page)
    (hone : ∀ b ∈ before ++ after, b.slot ≠ w) (hparked : (s.session w).parked = some parked)
    (hpool : s.pool ++ [e.frame] = pf :: rest) (hhead : pf = e.frame ∨ (s.frame pf).state = .free)
    (hmapped : (s.frame (s.entry e.page).frame).state = .mapped) :
    s.GrantsTo (withdraw slot [e] s) e w parked.pending pf rest (before ++ after) := by
  obtain ⟨u, hu⟩ : ∃ u, u = dropShadow e s := ⟨_, rfl⟩
  have hdrop := hu.trans (dropShadow_frees hs hp hf)
  have hentry : ∀ q, u.entry q = if q = e.page then { s.entry e.page with claim := none } else s.entry q := fun q => by
    rw [hdrop]
    exact State.setEntry_entry ..
  have hframe : ∀ q, u.frame q =
      if q = e.frame then { s.frame e.frame with state := .free, owner := none } else s.frame q := fun q => by
    rw [hdrop]
    exact State.setFrame_frame ..
  have hsession : ∀ x, u.session x = s.session x := fun x => by
    rw [hdrop]
    rfl
  have hpage : u.entry e.page = { s.entry e.page with claim := none } := (hentry _).trans (if_pos rfl)
  have hwrite : u.parkedWrite w = parked.pending := by rw [State.parkedWrite, hsession, hparked]
  have hgrant : withdraw slot [e] s = (endWait w u).taken w e.page parked.pending .granted pf rest := by
    rw [withdraw_of_idle ha hj, List.foldl_cons, List.foldl_nil, List.foldl_cons, List.foldl_nil, ← hu, ← hwrite]
    exact offerClaim_grants (by rw [hdrop]; exact hwaits) hbefore (by rw [hdrop]; exact hpool)
  have hne : (s.entry e.page).frame ≠ e.frame := fun h => by rw [h, hs] at hmapped; cases hmapped
  have hne' : (s.entry e.page).frame ≠ pf := by
    rcases hhead with rfl | hfree
    · exact hne
    · exact fun h => by rw [h, hfree] at hmapped; cases hmapped
  have hsource : ((endWait w u).entry e.page).frame = (s.entry e.page).frame := by
    rw [show (endWait w u).entry e.page = _ from hpage]
  have hcond : ((endWait w u).entry e.page).condition = (s.entry e.page).condition := by
    rw [show (endWait w u).entry e.page = _ from hpage]
  have hkeep : u.frame (s.entry e.page).frame = s.frame (s.entry e.page).frame := (hframe _).trans (if_neg hne)
  have hother : ∀ q, q ≠ pf → q ≠ (s.entry e.page).frame → (withdraw slot [e] s).frame q = u.frame q :=
    fun q h1 h2 => by
      rw [hgrant, taken_frame_other h1 (hsource ▸ h2)]
      rfl
  refine ⟨?_, fun q hq => ?_, ?_, ?_, ?_, ?_, fun h => ?_, ?_, ?_, fun q h1 h2 h3 => ?_, fun q => ?_, ?_⟩
  · rw [hgrant, taken_entry, if_pos rfl]
    exact congrArg (fun x : MapEntry => { x with claim := some w }) hpage
  · rw [hgrant, taken_entry, if_neg hq]
    exact (hentry q).trans (if_neg hq)
  · rw [hgrant, taken_books]
    refine Eq.trans ?_ (filter_slot_ne (page := e.page) hone)
    rw [← hwaits, hdrop]
    rfl
  · rw [hgrant, taken_books]
  · rw [hgrant, taken_session, if_pos rfl, endWait_session, hsession, hcond]
  · rw [hgrant, taken_frame_self (by rw [hsource]; exact hne')]
    have hstand : u.frame pf = if pf = e.frame then { s.frame pf with state := .free, owner := none } else s.frame pf := by
      rw [hframe]
      split
      · next h => rw [h]
      · rfl
    refine (congrArg (fun f : FrameRec => { f with state := .shadow, owner := some (.session w) }) hstand).trans ?_
    split <;> rfl
  · rw [hother e.frame h hne.symm, hframe, if_pos rfl]
  · rw [hgrant, taken_jobs, State.fillJob, State.fillJob, hcond, hsource, hdrop]
    rfl
  · have hpin := taken_frame_source (s := endWait w u) (slot := w) (page := e.page) (write := parked.pending)
      (origin := .granted) (pf := pf) (rest := rest) (by rw [hsource]; exact hne')
    rw [hsource, hcond, show (endWait w u).frame _ = _ from hkeep] at hpin
    rw [hgrant, hpin]
  · rw [hother q h1 h3, hframe, if_neg h2]
  · rw [hgrant, taken_books, hdrop]
    rfl
  · rw [hgrant, taken_books, hdrop]
    rfl

/-- What a single pinned shadow's release leaves at an empty pool: every waiter of its page fails. -/
structure State.FailsTo (s t : State) (e : ShadowEntry) : Prop where
  waits    : t.waits = s.waits.filter fun w => w.page ≠ e.page
  pool     : t.pool = s.pool
  jobs     : t.jobs = s.jobs
  log      : t.log = s.log
  entries  : ∀ q, t.entry q = if q = e.page then { s.entry e.page with claim := none } else s.entry q
  frames   : ∀ q, t.frame q = if q = e.frame then { s.frame e.frame with state := .held, owner := none } else s.frame q
  sessions : ∀ x, t.session x =
    if x ∈ s.waiters e.page then { s.session x with activity := .idle, parked := none, waitPage := none }
    else s.session x
  notices  : ∀ q, (s.port q).notices.length +
      ((s.waiters e.page).filter fun w => (s.session w).port = some q).length ≤ 8 →
    (t.port q).notices.map Notice.body = (s.port q).notices.map Notice.body ++
      ((s.waiters e.page).filter fun w => (s.session w).port = some q).map fun w => .writeFailed (s.handle w) .noPage

theorem withdraw_fails {e : ShadowEntry} (ha : (s.session slot).activity = .idle)
    (hj : ∀ j ∈ s.jobs, j.session? ≠ some slot) (hs : (s.frame e.frame).state = .shadow)
    (hp : 0 < (s.frame e.frame).pins) (hpool : s.pool = []) (hnodup : (s.waits.map WaitEntry.slot).Nodup) :
    s.FailsTo (withdraw slot [e] s) e := by
  obtain ⟨u, hu⟩ : ∃ u, u = (s.setEntry e.page { s.entry e.page with claim := none }).setFrame e.frame
    { s.frame e.frame with state := .held, owner := none } := ⟨_, rfl⟩
  have hwaits : u.waits = s.waits := by rw [hu]; rfl
  have hwaiters : u.waiters e.page = s.waiters e.page := by rw [State.waiters, hwaits]; rfl
  have hsession : ∀ x, u.session x = s.session x := fun x => by rw [hu]; rfl
  have hport : ∀ q, u.port q = s.port q := fun q => by rw [hu]; rfl
  have hhandle : ∀ x, u.handle x = s.handle x := fun x => by rw [hu]; rfl
  have hfails : withdraw slot [e] s = failWaits (s.waiters e.page) u := by
    rw [withdraw_of_idle ha hj, List.foldl_cons, List.foldl_nil, List.foldl_cons, List.foldl_nil,
      dropShadow_holds hs hp, ← hu, ← hwaiters]
    exact offerClaim_fails (by rw [hu]; exact hpool) (hwaits ▸ hnodup)
  have hwaiting : (s.waiters e.page).Nodup := hnodup.sublist (List.filter_sublist.map _)
  rw [hfails]
  refine ⟨?_, ?_, ?_, ?_, fun q => ?_, fun q => ?_, fun x => ?_, fun q hroom => ?_⟩
  · rw [failWaits_books, hwaits, filter_not_waiters e.page hnodup]
  · rw [failWaits_books, hu]
    rfl
  · rw [failWaits_books, hu]
    rfl
  · rw [failWaits_books, hu]
    rfl
  · rw [failWaits_books, hu]
    exact State.setEntry_entry ..
  · rw [failWaits_books, hu]
    exact State.setFrame_frame ..
  · rw [failWaits_session, hsession]
  · have htold := failWaits_notices (s := u) (s.waiters e.page) hwaiting q
    simp only [hsession, hport, hhandle] at htold
    exact htold hroom

/-! ### The event of an ABORT -/

section
variable {p : PortId} {r : Request}

theorem startRelocation_sessions (s : State) : (startRelocation s).sessions = s.sessions := by
  cases hd : relocationDue s with
  | none => rw [startRelocation_of_none hd]
  | some page =>
    cases hp : s.pool with
    | nil => rw [startRelocation_of_empty hp]
    | cons target rest =>
      rw [startRelocation_eq hd hp]
      rfl

theorem withdraw_relocations (s : State) (slot : Slot) (l : List ShadowEntry) :
    (withdraw slot l s).relocations = s.relocations := by
  have hwait : ∀ t : State, (abortWait slot t).relocations = t.relocations := fun t => by
    simp only [abortWait]
    split <;> rfl
  refine (foldl_keeps State.relocations _ (fun t e => offerDown_relocations ..) _ _).trans ?_
  refine (foldl_keeps State.relocations _ (fun t e => by simp [dropShadow]) _ _).trans ?_
  rw [hwait]
  simp

/-- The state after an ABORT withdrew its session's hold. -/
def State.withdrawn (s : State) (p : PortId) (r : Request) (slot : Slot) : State :=
  withdraw slot (s.session slot).shadows (s.serving p r (some slot) .atOnce)

/-- The state after an ABORT ended its session and was answered, before a relocation may start. -/
def State.aborted (s : State) (p : PortId) (r : Request) (slot : Slot) : State :=
  freeSession slot ((modifySession slot (fun r => { r with guards := [] }) (s.withdrawn p r slot)).replied p r .done)

theorem withdrawn_background (s : State) (p : PortId) (r : Request) (slot : Slot) :
    (s.serving p r (some slot) .atOnce).Background (s.withdrawn p r slot) := withdraw_background ..

/-- An ABORT in service is no request that its own session's abort cancels: it is answered OK (R50). -/
theorem abortSession_requested (howner : (s.session slot).port = some p) (hstate : (s.session slot).state ≠ .free)
    (hgroup : (s.session slot).group = none) (hop : isAbortOp r.op = true) :
    abortSession slot .requested (s.serving p r (some slot) .atOnce) = s.aborted p r slot := by
  obtain ⟨v, hv⟩ : ∃ v, v = s.serving p r (some slot) .atOnce := ⟨_, rfl⟩
  have hserv : (v.port p).inService = some ⟨r, some slot, .atOnce⟩ := by
    rw [hv, State.serving, State.setPort_port_self]
  have hsession : v.session slot = s.session slot := by rw [hv, State.serving_session]
  have hservice : abortService slot v = v := by
    have hnaming : v.serviceNaming p slot = none := by simp [State.serviceNaming, hserv, hop]
    simp only [abortService, hsession, howner, hnaming]
  have hback := withdrawn_background s p r slot
  rw [← hv] at hback
  have hwithdrawn : withdraw slot (v.session slot).shadows v = s.withdrawn p r slot := by
    rw [hsession, hv, State.withdrawn]
  obtain ⟨u, hu⟩ : ∃ u, u = modifySession slot (fun r => { r with guards := [] }) (s.withdrawn p r slot) := ⟨_, rfl⟩
  have huport : (u.session slot).port = some p := by
    obtain ⟨-, -, hp, -⟩ := (hback.keepsOthers (ended := fun _ => False) (cleared := fun _ => False)).sessions slot id
    rw [hu, modifySession, State.setSession_session_self, hp, hsession, howner]
  have huserv : (u.port p).inService = some ⟨r, some slot, .atOnce⟩ := by
    rw [hu, modifySession, State.setSession_port, (hback.ports p).inService, hserv]
  rw [← hv, abortSession_ungrouped (hsession ▸ hstate) (hsession ▸ hgroup), abortHold_eq, hservice, hwithdrawn, ← hu,
    State.aborted, ← hu, ← respond_eq_replied huserv]
  simp only [abortReport, huport]

theorem aborted_ends (howner : (s.session slot).port = some p) (hstate : (s.session slot).state ≠ .free)
    (hgroup : (s.session slot).group = none) (hop : isAbortOp r.op = true) :
    (s.serving p r (some slot) .atOnce).Ends (s.aborted p r slot) (· = slot) := by
  rw [← abortSession_requested howner hstate hgroup hop,
    abortSession_ungrouped (s := s.serving p r (some slot) .atOnce) hstate hgroup]
  exact (abortHold_ends _ slot _).trans (freeSession_ends _ slot)

theorem aborted_session_self (s : State) (p : PortId) (r : Request) (slot : Slot) :
    (s.aborted p r slot).session slot = (s.session slot).ended := by
  obtain ⟨-, hg, -⟩ := ((withdrawn_background s p r slot).keepsOthers (ended := fun _ => False)
    (cleared := fun _ => False)).sessions slot id
  simp [State.aborted, freeSession, modifySession, State.replied, SessionRec.ended, SessionRec.reset, hg]

theorem aborted_session_of_ne {x : Slot} (h : x ≠ slot) :
    (s.aborted p r slot).session x = (s.withdrawn p r slot).session x :=
  (State.setSession_session_of_ne _ _ h).trans (State.setSession_session_of_ne (s.withdrawn p r slot) _ h)

theorem aborted_port (q : PortId) : (s.aborted p r slot).port q =
    if q = p then
      { (s.withdrawn p r slot).port p with
        responses := (s.port p).responses ++ [⟨r.tag, .done⟩]
        inService := none
        attn := s.settings.respMask[p] || (s.settings.noteMask[p] && !((s.withdrawn p r slot).port p).notices.isEmpty) }
    else (s.withdrawn p r slot).port q := by
  have hback := withdrawn_background s p r slot
  have hresponses : ((s.withdrawn p r slot).port p).responses = (s.port p).responses := by
    rw [(hback.ports p).responses, State.serving, State.setPort_port_self]
    rfl
  have hsettings : (s.withdrawn p r slot).settings = s.settings := hback.settings
  rw [← hresponses, ← hsettings]
  exact (State.setSession_port ..).trans (replied_port ..)

/-- Beside its port and its session an ABORT leaves what was withdrawn. -/
theorem aborted_books (s : State) (p : PortId) (r : Request) (slot : Slot) :
    (∀ page, (s.aborted p r slot).entry page = (s.withdrawn p r slot).entry page) ∧
      (∀ pf, (s.aborted p r slot).frame pf = (s.withdrawn p r slot).frame pf) ∧
      (s.aborted p r slot).waits = (s.withdrawn p r slot).waits ∧ (s.aborted p r slot).pool = (s.withdrawn p r slot).pool ∧
      (s.aborted p r slot).jobs = (s.withdrawn p r slot).jobs ∧ (s.aborted p r slot).log = (s.withdrawn p r slot).log := by
  simp [State.aborted, modifySession, State.replied]

theorem aborted_notices (q : PortId) : ((s.aborted p r slot).port q).notices = ((s.withdrawn p r slot).port q).notices := by
  rw [aborted_port]
  split
  · next h => rw [h]
  · rfl

theorem serving_notices (session : Option Slot) (stage : Stage) (q : PortId) :
    ((s.serving p r session stage).port q).notices = (s.port q).notices := by
  rw [State.serving, State.setPort_port]
  split
  · next h => rw [h]; rfl
  · rfl

end

end

/-- A slot that a handle names holds a session. -/
theorem owns_not_free {s : State} {p : PortId} {handle : Handle} {slot : Slot} (h : s.Owns p handle slot) :
    (s.session slot).state ≠ .free := by
  obtain ⟨hnamed, -⟩ := h
  simp only [State.named] at hnamed
  split at hnamed
  · next hc =>
    cases hnamed
    exact hc.1
  · cases hnamed

/-- The event of an ABORT of a session in no group. -/
theorem exec_abort {s : State} {p : PortId} {tag : Byte} {handle : Handle} {slot : Slot} (hp : s.PortFree p)
    (howns : s.Owns p handle slot) (hgroup : (s.session slot).group = none) :
    exec (.abort p tag handle) s = .next (startRelocation (s.aborted p ⟨tag, .abort handle⟩ slot)) := by
  generalize hr : (⟨tag, .abort handle⟩ : Request) = r
  have hcheck : checkHandle p handle false (s.serving p r none .atOnce) = .ok slot :=
    checkHandle_of_owns (s := s.serving p r none .atOnce) howns nofun
  have hnaming : setService p (some slot) .atOnce (s.serving p r none .atOnce) = s.serving p r (some slot) .atOnce := by
    simp [setService, State.serving]
  have habort := abortSession_requested howns.2 (owns_not_free howns) hgroup (p := p) (r := r) (hr ▸ rfl)
  have hback := withdrawn_background s p r slot
  have hlaw : (startRelocation (s.aborted p r slot)).QueueLaw := fun q => by
    have hstart := startRelocation_port (s.aborted p r slot) q
    have hwaiting := hback.queueLaw (serving_queueLaw hp r (some slot) .atOnce) q
    rw [hstart, aborted_port]
    split
    · have hrequests : ((s.withdrawn p r slot).port p).requests = [] := by
        rw [(hback.ports p).requests, State.serving, State.setPort_port_self]
        exact hp.queue
      simp [PortRec.waiting, hrequests]
    · exact hwaiting
  subst hr
  refine congrArg Host.Outcome.next ((sendRequest_of_free hp rfl).trans ?_)
  simp only [serve, serveAbort, hcheck, hnaming, habort]
  exact settleUpTo_of_queueLaw hlaw _

/-! ### What the event leaves, case by case -/

section
variable {s : State} {p : PortId} {r : Request} {slot : Slot}

theorem aborted_of_unlisted (h : s.relocations = []) : startRelocation (s.aborted p r slot) = s.aborted p r slot :=
  startRelocation_of_none (relocationDue_nil ((withdraw_relocations ..).trans h))

theorem withdrawn_eq_drops (ha : (s.session slot).activity = .idle) (hj : ∀ j ∈ s.jobs, j.session? ≠ some slot)
    (hw : s.waits = []) : s.withdrawn p r slot =
      (s.session slot).shadows.foldl (fun t e => dropShadow e t) (s.serving p r (some slot) .atOnce) :=
  withdraw_drops (s := s.serving p r (some slot) .atOnce) ha hj hw _

/-- With no writer waiting an idle session's frames go back to the pool tail. -/
theorem withdrawn_drops (ha : (s.session slot).activity = .idle) (hj : ∀ j ∈ s.jobs, j.session? ≠ some slot)
    (hw : s.waits = []) (hnodup : ((s.session slot).shadows.map ShadowEntry.frame).Nodup)
    (hl : ∀ e ∈ (s.session slot).shadows, (s.frame e.frame).state = .shadow ∧ (s.frame e.frame).pins = 0 ∧
      (s.frame e.frame).retireOnRelease = false) :
    s.DropsTo (s.withdrawn p r slot) (s.session slot).shadows := by
  have h := dropShadows_drop (s := s.serving p r (some slot) .atOnce) _ hnodup hl
  rw [withdrawn_eq_drops ha hj hw]
  exact ⟨h.pool, h.freed, h.frames, h.entries, fun q => (h.notices q).trans (serving_notices ..), h.log⟩

theorem withdrawn_of_one {e : ShadowEntry} (h : (s.session slot).shadows = [e]) :
    s.withdrawn p r slot = withdraw slot [e] (s.serving p r (some slot) .atOnce) := by
  rw [State.withdrawn, h]

/-- A structure of facts about the state served holds of the state before: an ABORT in service changes its port alone. -/
theorem State.GrantsTo.of_serving {t : State} {e : ShadowEntry} {w : Slot} {write : PendingWrite} {pf : PF} {rest : List PF}
    {waits : List WaitEntry} (h : (s.serving p r (some slot) .atOnce).GrantsTo t e w write pf rest waits) :
    s.GrantsTo t e w write pf rest waits :=
  { claim := h.claim, entries := h.entries, waits := h.waits, pool := h.pool, session := h.session, shadow := h.shadow,
    released := h.released, jobs := h.jobs, source := h.source, others := h.others, log := h.log
    notices := fun q => (h.notices q).trans (serving_notices ..) }

theorem State.FailsTo.of_serving {t : State} {e : ShadowEntry}
    (h : (s.serving p r (some slot) .atOnce).FailsTo t e) : s.FailsTo t e :=
  { waits := h.waits, pool := h.pool, jobs := h.jobs, log := h.log, entries := h.entries, frames := h.frames
    sessions := h.sessions
    notices := fun q hroom => by
      have hnotices := serving_notices (s := s) (p := p) (r := r) (some slot) .atOnce q
      have htold := h.notices q (by rw [hnotices]; exact hroom)
      rw [hnotices] at htold
      exact htold }

theorem fillJob_of_normal {page : LP} (h : (s.entry page).condition = .normal) (write : PendingWrite) (origin : Origin)
    (pf : PF) : s.fillJob slot page write origin pf = ⟨.copy slot (s.entry page).frame write origin, page, pf, .fillRead 0⟩ :=
  if_neg (by rw [h]; nofun)

theorem fillJob_of_poisoned {page : LP} (h : (s.entry page).condition = .poisoned) (write : PendingWrite) (origin : Origin)
    (pf : PF) : s.fillJob slot page write origin pf = ⟨.zero slot write origin, page, pf, .fillWrite 0 0⟩ :=
  if_pos h

/-- A port's record after an ABORT of its own was answered. -/
theorem aborted_answer (s : State) (p : PortId) (r : Request) (slot : Slot) :
    ((s.aborted p r slot).port p).responses = (s.port p).responses ++ [⟨r.tag, .done⟩] ∧
      ((s.aborted p r slot).port p).inService = none ∧ ((s.aborted p r slot).port p).credits = (s.port p).credits - 1 := by
  have hcredits : ((s.withdrawn p r slot).port p).credits = (s.port p).credits - 1 := by
    rw [((withdrawn_background s p r slot).ports p).credits, State.serving, State.setPort_port_self]
    rfl
  rw [aborted_port, if_pos rfl]
  exact ⟨rfl, rfl, hcredits⟩

end

/-- Settles O18: the hold of the session is withdrawn shadow by shadow, the ABORT is answered, and the slot is freed. -/
theorem abortEndsSession : Obligations.AbortEndsSession := by
  intro p tag handle slot s hp howns hgroup
  have hexec := exec_abort (tag := tag) hp howns hgroup
  have hends := aborted_ends howns.2 (owns_not_free howns) hgroup (p := p) (r := ⟨tag, .abort handle⟩) rfl
  obtain ⟨r, hr⟩ : ∃ r : Request, r = ⟨tag, .abort handle⟩ := ⟨_, rfl⟩
  rw [← hr] at hexec hends
  have hstart := startRelocation_background (s.aborted p r slot)
  have hgroups : (s.aborted p r slot).groups = s.groups := (withdrawn_background s p r slot).groups
  obtain ⟨hresponses, hservice, hcredits⟩ := aborted_answer s p r slot
  obtain ⟨hentry, hframe, hwaits', hpool', hjobs', hlog'⟩ := aborted_books s p r slot
  refine ⟨_, hexec, ?_, ?_, hstart.groups.trans hgroups, ?_, ?_, ?_, ?_, ?_, ?_⟩
  · rw [← aborted_session_self s p r slot]
    simp only [State.session, startRelocation_sessions]
  · exact (serving_keepsOthers s p r (some slot) .atOnce).trans (hends.others.trans hstart.keepsOthers)
  · rw [startRelocation_port, hresponses, hr]
  · rw [startRelocation_port, hservice]
  · rw [startRelocation_port, hcredits]
  · intro hidle hjobs hwaits hrel hnodup hframes
    have hdrops := withdrawn_drops (p := p) (r := r) hidle hjobs hwaits hnodup hframes
    have heq := withdrawn_eq_drops (p := p) (r := r) hidle hjobs hwaits
    have hsame : (s.withdrawn p r slot).jobs = s.jobs := by
      rw [heq]
      exact (dropShadows_frame ..).1
    simp only [aborted_of_unlisted hrel, hentry, hframe, hpool', hjobs', hlog', aborted_notices]
    refine ⟨hdrops.pool, fun e he => ?_, hdrops.frames, hdrops.entries, hdrops.notices p, hdrops.log, hsame⟩
    obtain ⟨hstate, howner⟩ := hdrops.freed e he
    have hclaim : ((s.withdrawn p r slot).entry e.page).claim = none := by
      rw [heq]
      exact dropShadows_claim _ _ (.inr ⟨e, he, rfl⟩)
    exact ⟨hstate, howner, hclaim⟩
  · intro e w parked pf rest before after hidle hjobs hrel hone hs hpins hflag hwaits hbefore hothers hne hparked hpool
      hhead hmapped
    have hgrants := (withdraw_grants (s := s.serving p r (some slot) .atOnce) hidle hjobs hs hpins hflag hwaits hbefore
      hothers hparked hpool hhead hmapped).of_serving
    rw [← withdrawn_of_one hone] at hgrants
    simp only [aborted_of_unlisted hrel, hentry, hframe, hwaits', hpool', hjobs', hlog', aborted_notices]
    refine ⟨hgrants.claim, hgrants.entries, hgrants.waits, hgrants.pool, (aborted_session_of_ne hne).trans hgrants.session,
      hgrants.shadow, hgrants.released, fun hnormal => ⟨?_, ?_⟩, fun hpoisoned => ⟨?_, ?_⟩, hgrants.others,
      hgrants.notices, hgrants.log⟩
    · exact hgrants.jobs.trans (by rw [fillJob_of_normal hnormal]; rfl)
    · exact hgrants.source.trans (if_neg (by rw [hnormal]; nofun))
    · exact hgrants.jobs.trans (by rw [fillJob_of_poisoned hpoisoned]; rfl)
    · exact hgrants.source.trans (if_pos hpoisoned)
  · intro e hidle hjobs hrel hone hs hpins hpool hnodup hnot
    have hfails := (withdraw_fails (s := s.serving p r (some slot) .atOnce) hidle hjobs hs hpins hpool hnodup).of_serving
    rw [← withdrawn_of_one hone] at hfails
    have hother : ∀ x ∈ s.waiters e.page, x ≠ slot := fun x hx h =>
      hnot (h ▸ (List.filter_sublist.map WaitEntry.slot).subset hx)
    simp only [aborted_of_unlisted hrel, hentry, hframe, hwaits', hpool', hjobs', hlog', aborted_notices]
    refine ⟨(hfails.entries _).trans (if_pos rfl), fun q hq => (hfails.entries q).trans (if_neg hq), hfails.waits,
      hfails.pool.trans hpool, hfails.jobs, hfails.log, (hfails.frames _).trans (if_pos rfl),
      fun q hq => (hfails.frames q).trans (if_neg hq), fun x hx => ?_, fun x hne hx => ?_, hfails.notices⟩
    · exact (aborted_session_of_ne (hother x hx)).trans ((hfails.sessions x).trans (if_pos hx))
    · exact (aborted_session_of_ne hne).trans ((hfails.sessions x).trans (if_neg hx))

end Sys2Proof.Machine
end

-- ==== Settings, quotas and groups ====
section
/-! PROOFS. What an edit does to the settings, the sessions' ports and the groups (R43, R110, R154). -/

namespace Sys2Proof.Machine

section
variable {s t : State}

/-- The re-evaluation of the ATTN lines leaves the settings, the sessions and the groups. -/
theorem evalAllAttn_tables (s : State) : (evalAllAttn s).settings = s.settings ∧ (evalAllAttn s).sessions = s.sessions ∧
    (evalAllAttn s).groups = s.groups := by
  unfold evalAllAttn
  exact ⟨foldl_keeps State.settings _ (fun t p => State.setPort_settings ..) _ _,
    foldl_keeps State.sessions _ (fun t p => State.setPort_sessions ..) _ _,
    foldl_keeps State.groups _ (fun t p => State.setPort_groups ..) _ _⟩

/-! ### The settings -/

/-- A record in range stands for settings in range. -/
theorem settingsLaw_of_configured {record : ConfigRecord} (h : configInRange record = true)
    (ht : t.settings = configSettings record) : t.SettingsLaw := by
  simp only [configInRange, Bool.and_eq_true, decide_eq_true_eq, List.all_eq_true] at h
  obtain ⟨⟨⟨⟨⟨hperiod, hlow⟩, hhigh⟩, hbudget⟩, hmost⟩, hquotas⟩ := h
  rw [State.SettingsLaw, ht]
  refine ⟨hperiod, ⟨hlow, hhigh⟩, ⟨hbudget, hmost⟩, fun p => ?_⟩
  have hquota := hquotas record.quotas[p] (by simp)
  simpa [configSettings] using hquota

/-- Every edit keeps the settings in range: a SETCONFIG alone replaces them. -/
theorem Edit.settingsLaw (h : Edit s t) (hs : s.SettingsLaw) : t.SettingsLaw := by
  have hsame : ∀ {u : State}, u.settings = s.settings → u.SettingsLaw := fun hu => by
    simp only [State.SettingsLaw, hu]
    exact hs
  cases h with
  | configure record timer hr hf => exact settingsLaw_of_configured hr (evalAllAttn_tables _).1
  | allocate _ state owner pf hst ha =>
    simp only [Machine.allocate] at ha
    split at ha
    · cases ha
    · cases ha
      exact hs
  | notice p body => exact hsame (by simp)
  | respond p a => exact hsame (by simp)
  | service p session stage => exact hsame (by simp)
  | discard p cause => exact hsame (by simp)
  | fetch p =>
    simp only [completeFetch]
    split <;> exact hs
  | _ => exact hs

/-! ### The quotas -/

theorem mem_sessionsOf {p : PortId} {slot : Slot} :
    slot ∈ s.sessionsOf p ↔ (s.session slot).state ≠ .free ∧ (s.session slot).port = some p := by
  simp [State.sessionsOf]

theorem heldBy_eq (s : State) (p : PortId) : s.heldBy p = (s.sessionsOf p).length := List.countP_eq_length_filter

theorem sessionsOf_length_le {p : PortId} {l : List Slot} (h : ∀ slot ∈ t.sessionsOf p, slot ∈ l) :
    (t.sessionsOf p).length ≤ l.length :=
  (((List.nodup_finRange 8).filter _).subperm h).length_le

/-- A session's record reads as FREE, or belongs to the port it belonged to. -/
def SessionRec.HeldAsBefore (r r' : SessionRec) : Prop := r'.state = .free ∨ (r.state ≠ .free ∧ r'.port = r.port)

theorem SessionRec.HeldAsBefore.refl (r : SessionRec) : r.HeldAsBefore r := (em _).imp_right fun h => ⟨h, rfl⟩

/-- Where no port gains a session each stays within its quota. -/
theorem quotaLaw_of_held (hs : s.QuotaLaw) (hsettings : t.settings = s.settings)
    (h : ∀ slot, (s.session slot).HeldAsBefore (t.session slot)) : t.QuotaLaw := fun p => by
  rw [hsettings]
  refine le_trans (sessionsOf_length_le fun slot hslot => ?_) (hs p)
  obtain ⟨hstate, hport⟩ := mem_sessionsOf.mp hslot
  rcases h slot with hfree | ⟨hheld, hsame⟩
  · exact absurd hfree hstate
  · exact mem_sessionsOf.mpr ⟨hheld, hsame ▸ hport⟩

/-- An OPEN takes a slot for a port that has fewer sessions than its quota. -/
theorem quotaLaw_opened (hs : s.QuotaLaw) {slot : Slot} {p : PortId} {r : SessionRec} (hport : r.port = some p)
    (hq : s.heldBy p < s.settings.quotas[p]) : (s.setSession slot r).QuotaLaw := fun q => by
  rw [heldBy_eq] at hq
  have hmem : ∀ x ∈ (s.setSession slot r).sessionsOf q, x = slot ∧ q = p ∨ x ∈ s.sessionsOf q := fun x hx => by
    rw [mem_sessionsOf, State.setSession_session] at hx
    split at hx
    · next h => exact .inl ⟨h, Option.some.inj (hx.2.symm.trans hport)⟩
    · exact .inr (mem_sessionsOf.mpr hx)
  by_cases hqp : q = p
  · subst hqp
    have hlen := sessionsOf_length_le (l := slot :: s.sessionsOf q) fun x hx => by
      rcases hmem x hx with ⟨rfl, -⟩ | h
      · exact List.mem_cons_self ..
      · exact List.mem_cons_of_mem _ h
    exact hlen.trans hq
  · exact le_trans (sessionsOf_length_le fun x hx => (hmem x hx).resolve_left fun h => hqp h.2) (hs q)

/-- Every edit keeps every port within its quota: an OPEN is checked, a SETCONFIG finds every slot FREE. -/
theorem Edit.quotaLaw (h : Edit s t) (hs : s.QuotaLaw) : t.QuotaLaw := by
  have hsame : ∀ {u : State}, u.settings = s.settings → u.sessions = s.sessions → u.QuotaLaw := fun hu hv =>
    quotaLaw_of_held hs hu fun slot => by
      simp only [State.session, hv]
      exact .refl _
  have hone : ∀ (slot : Slot) (r : SessionRec), (s.session slot).HeldAsBefore r → (s.setSession slot r).QuotaLaw :=
    fun slot r hr => quotaLaw_of_held hs rfl fun x => by
      rw [State.setSession_session]
      split
      · next hx => exact hx ▸ hr
      · exact .refl _
  cases h with
  | configure record timer hr hf =>
    obtain ⟨-, hsessions, -⟩ := evalAllAttn_tables { s with settings := configSettings record, timer := timer }
    intro p
    refine le_trans (sessionsOf_length_le (l := []) fun slot hslot => ?_) (Nat.zero_le _)
    rw [mem_sessionsOf, State.session, hsessions] at hslot
    exact absurd (hf slot) hslot.1
  | opened slot p g budget hf hq => exact quotaLaw_opened hs rfl hq
  | session slot r hstate hport hg hn =>
    refine hone slot r ?_
    by_cases hfree : r.state = .free
    · exact .inl hfree
    · exact .inr ⟨mt hstate.mpr hfree, hport⟩
  | freed slot => exact hone slot _ (.inl rfl)
  | tick =>
    refine quotaLaw_of_held hs rfl fun slot => ?_
    rw [lowerBudgets_session]
    split
    · exact .refl _
    · next hheld => exact .inr ⟨hheld, rfl⟩
  | allocate _ state owner pf hst ha =>
    simp only [Machine.allocate] at ha
    split at ha
    · cases ha
    · cases ha
      exact hs
  | notice p body => exact hsame (by simp) (by simp)
  | respond p a => exact hsame (by simp) (by simp)
  | service p session stage => exact hsame (by simp) (by simp)
  | discard p cause => exact hsame (by simp) (by simp)
  | fetch p =>
    simp only [completeFetch]
    split <;> exact hs
  | _ => exact hs

/-! ### The groups -/

/-- A group record is IDLE exactly when it has no member, and has a closer exactly while CLOSING. -/
def GroupRec.Sound (r : GroupRec) : Prop :=
  (r.state = .idle ↔ r.members = []) ∧ (r.closer.isSome = true ↔ r.state = .closing)

theorem GroupRec.reset_sound : GroupRec.reset.Sound := by simp [GroupRec.Sound, GroupRec.reset]

theorem groupLaw_setGroup (hs : s.GroupLaw) {g : GroupIx} {r : GroupRec} (hr : r.Sound) : (s.setGroup g r).GroupLaw :=
  fun x => by
    rw [State.setGroup_group]
    split
    · exact hr
    · exact hs x

theorem joinGroup_sound {r : GroupRec} (h : r.Sound) (slot : Slot) :
    GroupRec.Sound { r with
      members := r.members ++ [slot], state := if r.state = .idle then .gathering else r.state } := by
  obtain ⟨-, hcloser⟩ := h
  cases hstate : r.state <;> simp [GroupRec.Sound, hcloser, hstate]

/-- Every edit keeps every group sound. -/
theorem Edit.groupLaw (h : Edit s t) (hs : s.GroupLaw) : t.GroupLaw := by
  have hsame : ∀ {u : State}, u.groups = s.groups → u.GroupLaw := fun hu g => by
    simp only [State.group, hu]
    exact hs g
  cases h with
  | join g slot => exact groupLaw_setGroup hs (joinGroup_sound (hs g) slot)
  | close g p hg =>
    refine groupLaw_setGroup hs ?_
    have hmembers : (s.group g).members ≠ [] := fun h => by
      rw [(hs g).1.mpr h] at hg
      cases hg
    simp [GroupRec.Sound, hmembers]
  | disband g => exact groupLaw_setGroup hs GroupRec.reset_sound
  | configure record timer hr hf => exact hsame (evalAllAttn_tables _).2.2
  | allocate _ state owner pf hst ha =>
    simp only [Machine.allocate] at ha
    split at ha
    · cases ha
    · cases ha
      exact hs
  | notice p body => exact hsame (by simp)
  | respond p a => exact hsame (by simp)
  | service p session stage => exact hsame (by simp)
  | discard p cause => exact hsame (by simp)
  | fetch p =>
    simp only [completeFetch]
    split <;> exact hs
  | _ => exact hs

end

/-- Settles O57: each law is kept edit by edit, by the two ends of the sweep, and holds of the reset tables. -/
theorem stepKeepsSessionsAndGroups : Obligations.StepKeepsSessionsAndGroups := fun _ _ hstep =>
  ⟨step_keeps (fun _ _ => Edit.settingsLaw) (fun _ => id) (fun _ => id) (fun _ _ => reset_settingsLaw) (fun _ _ => id) hstep,
   step_keeps (fun _ _ => Edit.quotaLaw) (fun _ => id) (fun _ => id) (fun _ _ => reset_quotaLaw) (fun _ _ => id) hstep,
   step_keeps (fun _ _ => Edit.groupLaw) (fun _ => id) (fun _ => id) (fun _ _ => reset_groupLaw) (fun _ _ => id) hstep⟩

end Sys2Proof.Machine
end

-- ==== The handle checks and GUARD ====
section
/-! PROOFS. The common handle checks, and GUARD: an answer, or a change of one session before it (R42, R94). -/

namespace Sys2Proof.Machine

/-- The row of a request is the release of its frame. -/
theorem exec_rowOf (p : PortId) (r : Request) (s : State) : exec (rowOf p r) s = .next (sendRequest p r s) := by
  obtain ⟨tag, op⟩ := r
  cases op <;> rfl

/-! ### The handle checks -/

/-- The handle that a request is checked for, and whether its session must be OPEN (R42); a READ may name no session. -/
def checkedHandle : RequestOp → Option (Handle × Bool)
  | .abort handle => some (handle, false)
  | .guard handle _ _ => some (handle, true)
  | .read handle _ _ => if handle = 0x80#8 then none else some (handle, false)
  | .write handle _ _ _ => some (handle, true)
  | .commit handle => some (handle, true)
  | .openSession _ _ | .close _ | .pageInfo _ | .poolInfo | .sessInfo _ | .watch _ | .unwatch _ | .setConfig _ | .getConfig
  | .logRead _ => none

section
variable {s : State} {p : PortId} {handle : Handle} {mustBeOpen : Bool}

/-- A request whose handle check fails is answered with what the check says. -/
theorem serve_of_refused {op : RequestOp} {a : Answer} (hc : checkedHandle op = some (handle, mustBeOpen))
    (h : checkHandle p handle mustBeOpen s = .error a) : serve p op s = respond p a s := by
  cases op with
  | abort _ =>
    cases hc
    simp only [serve, serveAbort, h]
  | guard _ page version =>
    cases hc
    simp only [serve, serveGuard, h]
  | read _ address length =>
    simp only [checkedHandle] at hc
    split at hc
    · cases hc
    · next hne =>
      cases hc
      simp only [serve, serveRead, if_neg hne, h]
      rfl
  | write _ address flags data =>
    cases hc
    simp only [serve, serveWrite, h]
  | commit _ =>
    cases hc
    simp only [serve, serveCommit, h]
  | _ => cases hc

theorem checkHandle_stale (h : s.named handle = none) : checkHandle p handle mustBeOpen s = .error .stale := by
  simp only [checkHandle, h]

theorem checkHandle_notOwner {slot : Slot} (h : s.named handle = some slot) (hp : (s.session slot).port ≠ some p) :
    checkHandle p handle mustBeOpen s = .error .notOwner := by
  simp only [checkHandle, h]
  rw [if_pos hp]

theorem checkHandle_notOpen {slot : Slot} (h : s.Owns p handle slot) (ho : (s.session slot).state ≠ .opened) :
    checkHandle p handle true s = .error .notOpen := by
  obtain ⟨hnamed, hport⟩ := h
  simp only [checkHandle, hnamed, hport, ne_eq, not_true_eq_false, if_false, Bool.true_and]
  rw [if_pos (decide_eq_true ho)]

/-- A request whose handle check fails changes its port's response alone. -/
theorem exec_of_refused {r : Request} {a : Answer} (hp : s.PortFree p) (hw : r.op.wellFormed = true)
    (hc : checkedHandle r.op = some (handle, mustBeOpen)) (h : checkHandle p handle mustBeOpen s = .error a) :
    exec (rowOf p r) s = .next (s.answered p r a) := by
  rw [exec_rowOf, sendRequest_answered hp hw (serve_of_refused (s := s.serving p r none .atOnce) hc h)]

end

/-- Settles O17: each of the five requests is checked for its handle, and the three checks fail one after another. -/
theorem handleChecks : Obligations.HandleChecks := by
  intro p tag handle s hp r mustBeOpen hw hr
  obtain ⟨b, hc, hb⟩ : ∃ b, checkedHandle r.op = some (handle, b) ∧ (mustBeOpen → b = true) := by
    rcases hr with ⟨rfl, hno⟩ | ⟨address, length, rfl, hne, hno⟩ | ⟨⟨page, version, rfl⟩, -⟩ |
      ⟨⟨address, flags, data, rfl⟩, -⟩ | ⟨rfl, -⟩
    · exact ⟨false, rfl, fun h => absurd h hno⟩
    · exact ⟨false, if_neg hne, fun h => absurd h hno⟩
    · exact ⟨true, rfl, fun _ => rfl⟩
    · exact ⟨true, rfl, fun _ => rfl⟩
    · exact ⟨true, rfl, fun _ => rfl⟩
  refine ⟨fun hstale => exec_of_refused hp hw hc (checkHandle_stale hstale), fun slot hnamed => ⟨fun hport => ?_,
    fun hport hopen hstate => ?_⟩⟩
  · exact exec_of_refused hp hw hc (checkHandle_notOwner hnamed hport)
  · have hcheck := checkHandle_notOpen ⟨hnamed, hport⟩ hstate
    rw [← hb hopen] at hcheck
    exact exec_of_refused hp hw hc hcheck

/-! ### GUARD -/

/-- An entry of the page is replaced in its place (R94). -/
theorem putGuard_replaces {page : LP} {version : BitVec 16} {before after : List GuardEntry} {g : GuardEntry}
    (hg : g.page = page) (hother : ∀ x ∈ before ++ after, x.page ≠ page) :
    putGuard page version (before ++ g :: after) = before ++ ⟨page, version⟩ :: after := by
  have hsame : ∀ l : List GuardEntry, (∀ x ∈ l, x.page ≠ page) →
      l.map (fun x => if x.page = page then { x with version := version } else x) = l := fun l hl =>
    (List.map_congr_left fun x hx => if_neg (hl x hx)).trans (List.map_id' l)
  obtain ⟨hbefore, hafter⟩ := List.forall_mem_append.mp hother
  rw [putGuard, if_pos (by simp [hg]), List.map_append, List.map_cons, hsame before hbefore, hsame after hafter, if_pos hg,
    ← hg]

/-- A new entry is appended (R94). -/
theorem putGuard_appends {page : LP} {version : BitVec 16} {guards : List GuardEntry} (h : ∀ x ∈ guards, x.page ≠ page) :
    putGuard page version guards = guards ++ [⟨page, version⟩] := by
  rw [putGuard, if_neg (by simpa using h)]

section
variable {s : State} {p : PortId} {handle : Handle} {slot : Slot}

/-- A request that changes one session and is answered leaves the answered state of that change. -/
theorem respond_modifySession_serving (r : Request) (f : SessionRec → SessionRec) (a : Answer) :
    respond p a (modifySession slot f (s.serving p r none .atOnce)) =
      (s.setSession slot (f (s.session slot))).answered p r a :=
  respond_serving (s := s.setSession slot (f (s.session slot))) p r none .atOnce a

/-- A port is free whatever the sessions and the groups. -/
theorem State.PortFree.of_ports {t : State} (h : s.PortFree p) (hports : t.ports = s.ports) : t.PortFree p := by
  have hport : ∀ q, t.port q = s.port q := fun q => by simp only [State.port, hports]
  obtain ⟨hready, hwire, hcredit, hqueue, hservice, hothers⟩ := h
  rw [← hport p] at hready hwire hcredit hqueue hservice
  exact ⟨hready, hwire, hcredit, hqueue, hservice, fun q => by rw [hport]; exact hothers q⟩

/-- The event of a request that changes sessions and groups alone before its answer. -/
theorem sendRequest_answered_in {t : State} {r : Request} {a : Answer} (hp : s.PortFree p) (hw : r.op.wellFormed = true)
    (hports : t.ports = s.ports) (h : serve p r.op (s.serving p r none .atOnce) = t.answered p r a) :
    sendRequest p r s = t.answered p r a := by
  rw [sendRequest_of_free hp hw, h, settleUpTo_of_queueLaw (answered_queueLaw (hp.of_ports hports) r a)]

/-- A GUARD whose handle passes its checks (R94). -/
theorem serveGuard_eq {page : LP} {version : BitVec 16} (h : checkHandle p handle true s = .ok slot) :
    serveGuard p handle page version s =
      if (∃ g ∈ (s.session slot).guards, g.page = page) ∨ (s.session slot).guards.length < 16 then
        respond p .done (modifySession slot
          (fun r => { r with guards := putGuard page version (s.session slot).guards }) s)
      else respond p .limit s := by
  simp [serveGuard, h, Config.guardCapacity]

/-- The event of a GUARD whose handle passes its checks. -/
theorem exec_guard {tag : Byte} {page : LP} {version : BitVec 16} (hp : s.PortFree p) (howns : s.Owns p handle slot)
    (hopen : (s.session slot).state = .opened) :
    exec (.guard p tag handle page version) s = .next
      (if (∃ g ∈ (s.session slot).guards, g.page = page) ∨ (s.session slot).guards.length < 16 then
        (s.setSession slot { s.session slot with guards := putGuard page version (s.session slot).guards }).answered p
          ⟨tag, .guard handle page version⟩ .done
      else s.answered p ⟨tag, .guard handle page version⟩ .limit) := by
  obtain ⟨w, hw⟩ : ∃ w, w = s.serving p ⟨tag, .guard handle page version⟩ none .atOnce := ⟨_, rfl⟩
  have hcheck : checkHandle p handle true w = .ok slot :=
    hw ▸ checkHandle_of_owns (s := s.serving p _ none .atOnce) howns fun _ => hopen
  have hsession : w.session slot = s.session slot := hw ▸ rfl
  have hserve := serveGuard_eq (page := page) (version := version) hcheck
  rw [hsession] at hserve
  refine congrArg Host.Outcome.next ?_
  split
  · next hfits =>
    rw [if_pos hfits, hw] at hserve
    exact sendRequest_answered_in hp rfl rfl (hserve.trans (respond_modifySession_serving ..))
  · next hfull =>
    rw [if_neg hfull, hw] at hserve
    exact sendRequest_answered hp rfl hserve

end

/-- Settles O19: the entry is replaced, appended or refused as the list has the page, has room, or has neither. -/
theorem guardRecordsVersion : Obligations.GuardRecordsVersion := by
  intro p tag handle page version slot s hp howns hopen r guards
  have hexec := exec_guard (tag := tag) (page := page) (version := version) hp howns hopen
  refine ⟨fun before g after hguards hg hother => ?_, fun hnew hroom => ?_, fun hnew hfull => ?_⟩
  · have hmem : g ∈ guards := by simp [hguards]
    rw [hexec, if_pos (.inl ⟨g, hmem, hg⟩), show (s.session slot).guards = _ from hguards, putGuard_replaces hg hother]
  · rw [hexec, if_pos (.inr hroom), putGuard_appends hnew]
  · rw [hexec, if_neg]
    rintro (⟨g, hmem, hg⟩ | hroom)
    · exact hnew g hmem hg
    · exact Nat.not_lt.mpr hfull hroom

end Sys2Proof.Machine
end

-- ==== OPEN ====
section
/-! PROOFS. OPEN: its refusals in their order, and the session and membership it creates (R43, R44, R112). -/

namespace Sys2Proof.Machine

/-- A tag byte names the group one below it. -/
theorem groupOfTag_eq_some {tag : Byte} {g : GroupIx} : groupOfTag tag = some g ↔ tag.toNat = g.val + 1 := by
  simp only [groupOfTag]
  split
  · next h =>
    rw [Option.some.injEq, Fin.ext_iff]
    show tag.toNat - 1 = g.val ↔ _
    omega
  · next h =>
    refine ⟨nofun, fun htag => absurd ?_ h⟩
    have := g.isLt
    omega

section
variable {s : State} {p : PortId} {slot : Slot} {group : Byte} {budget : BitVec 16}

theorem lowestFree_eq_none (h : ∀ slot, (s.session slot).state ≠ .free) : s.lowestFree = none :=
  List.find?_eq_none.mpr fun slot _ => by simpa using h slot

theorem lowestFree_eq_some (h : (s.session slot).state = .free) (hlower : ∀ lower < slot, (s.session lower).state ≠ .free) :
    s.lowestFree = some slot := by
  refine List.find?_eq_some_iff_getElem.mpr ⟨decide_eq_true h, slot.val, by simp, by simp, fun j hj => ?_⟩
  simpa using hlower ⟨j, hj.trans slot.isLt⟩ hj

/-- The group a tag byte names is CLOSING. -/
def State.tagClosing (s : State) (group : Byte) : Prop := ∃ g : GroupIx, group.toNat = g.val + 1 ∧ (s.group g).state = .closing

theorem tagClosing_iff : ((groupOfTag group).map fun g => (s.group g).state) = some .closing ↔ s.tagClosing group := by
  simp only [Option.map_eq_some_iff, groupOfTag_eq_some, State.tagClosing]

/-- The record that OPEN gives a session (R44, R45). -/
def State.openRecord (s : State) (p : PortId) (slot : Slot) (group : Byte) (budget : BitVec 16) : SessionRec :=
  { SessionRec.reset with
    generation := (s.session slot).generation + 1, port := some p, state := .opened, group := groupOfTag group,
    budget := if budget = 0 then s.settings.defaultBudget else budget.toNat }

/-- The state after a session was opened in a slot and joined the group it names (R44, R112). -/
def State.opened (s : State) (p : PortId) (slot : Slot) (group : Byte) (budget : BitVec 16) : State :=
  match groupOfTag group with
  | none => s.setSession slot (s.openRecord p slot group budget)
  | some g => joinGroup g slot (s.setSession slot (s.openRecord p slot group budget))

theorem opened_of_none (h : groupOfTag group = none) :
    s.opened p slot group budget = s.setSession slot (s.openRecord p slot group budget) := by
  simp only [State.opened, h]

theorem opened_of_some {g : GroupIx} (h : groupOfTag group = some g) :
    s.opened p slot group budget = (s.setSession slot (s.openRecord p slot group budget)).setGroup g
      { s.group g with
        members := (s.group g).members ++ [slot]
        state := if (s.group g).state = .idle then .gathering else (s.group g).state } := by
  simp only [State.opened, h]
  rfl

/-- An opening changes the session and the group alone. -/
theorem opened_ports : (s.opened p slot group budget).ports = s.ports := by
  cases h : groupOfTag group with
  | none => rw [opened_of_none h, State.setSession_ports]
  | some g => rw [opened_of_some h, State.setGroup_ports, State.setSession_ports]

theorem opened_serving (r : Request) :
    (s.serving p r none .atOnce).opened p slot group budget = (s.opened p slot group budget).serving p r none .atOnce := by
  cases h : groupOfTag group with
  | none =>
    rw [opened_of_none h, opened_of_none h]
    rfl
  | some g =>
    rw [opened_of_some h, opened_of_some h]
    rfl

/-- What OPEN answers and leaves, by its checks in their order (R43, R44). -/
theorem serveOpen_eq : serveOpen p group budget s =
    if 4 < group.toNat ∨ 4000 < budget.toNat then respond p .badValue s
    else if s.settings.quotas[p] ≤ (s.sessionsOf p).length then respond p .quota s
    else match s.lowestFree with
      | none => respond p .noSession s
      | some slot =>
        if ((groupOfTag group).map fun g => (s.group g).state) = some .closing then respond p .groupClosed s
        else respond p (.openedOk (handleOf ((s.session slot).generation + 1) slot)) (s.opened p slot group budget) := by
  rw [serveOpen, heldBy_eq]
  rfl

section
variable (hg : group.toNat ≤ 4) (hb : budget.toNat ≤ 4000)
include hg hb

theorem serveOpen_quota (hq : s.settings.quotas[p] ≤ (s.sessionsOf p).length) :
    serveOpen p group budget s = respond p .quota s := by
  rw [serveOpen_eq, if_neg (by omega), if_pos hq]

variable (hfits : (s.sessionsOf p).length < s.settings.quotas[p])
include hfits

theorem serveOpen_noSession (h : s.lowestFree = none) : serveOpen p group budget s = respond p .noSession s := by
  rw [serveOpen_eq, if_neg (by omega), if_neg (Nat.not_le.mpr hfits), h]

theorem serveOpen_groupClosed (h : s.lowestFree.isSome = true) (hclosing : s.tagClosing group) :
    serveOpen p group budget s = respond p .groupClosed s := by
  obtain ⟨slot, hslot⟩ := Option.isSome_iff_exists.mp h
  simp only [serveOpen_eq, hslot, tagClosing_iff, hclosing, if_true, if_neg (Nat.not_le.mpr hfits),
    if_neg (show ¬ (4 < group.toNat ∨ 4000 < budget.toNat) by omega)]

theorem serveOpen_opens (h : s.lowestFree = some slot) (hclosing : ¬ s.tagClosing group) :
    serveOpen p group budget s =
      respond p (.openedOk (handleOf ((s.session slot).generation + 1) slot)) (s.opened p slot group budget) := by
  simp only [serveOpen_eq, h, tagClosing_iff, hclosing, if_false, if_neg (Nat.not_le.mpr hfits),
    if_neg (show ¬ (4 < group.toNat ∨ 4000 < budget.toNat) by omega)]

end

/-- The event of an OPEN that opens a session. -/
theorem exec_open_opens {tag : Byte} (hp : s.PortFree p) (hg : group.toNat ≤ 4) (hb : budget.toNat ≤ 4000)
    (hfits : (s.sessionsOf p).length < s.settings.quotas[p]) (h : s.lowestFree = some slot)
    (hclosing : ¬ s.tagClosing group) :
    exec (.openSession p tag group budget) s = .next ((s.opened p slot group budget).answered p
      ⟨tag, .openSession group budget⟩ (.openedOk (handleOf ((s.session slot).generation + 1) slot))) := by
  refine congrArg Host.Outcome.next (sendRequest_answered_in hp rfl opened_ports ?_)
  have hserve := serveOpen_opens (s := s.serving p ⟨tag, .openSession group budget⟩ none .atOnce) hg hb hfits h hclosing
  rw [opened_serving, respond_serving] at hserve
  exact hserve

end

/-- Settles O16: the four refusals fail one after another, and what is left opens the lowest FREE slot. -/
theorem openCreatesSession : Obligations.OpenCreatesSession := by
  intro p tag group budget s hp r closing fits
  have hanswered : ∀ a, serve p r.op (s.serving p r none .atOnce) = respond p a (s.serving p r none .atOnce) →
      exec (.openSession p tag group budget) s = .next (s.answered p r a) := fun a ha =>
    congrArg Host.Outcome.next (sendRequest_answered hp rfl ha)
  refine ⟨fun hbad => hanswered _ (serveOpen_eq.trans (if_pos hbad)), fun hg hb => ⟨fun hfull => ?_, fun hfits hnone => ?_,
    fun hfits hfree hclosing => ?_, fun slot hfits hfree hlower hclosing => ?_⟩⟩
  · exact hanswered _ (serveOpen_quota (s := s.serving p r none .atOnce) hg hb (Nat.not_lt.mp hfull))
  · exact hanswered _ (serveOpen_noSession (s := s.serving p r none .atOnce) hg hb hfits (lowestFree_eq_none hnone))
  · have hsome : s.lowestFree.isSome = true := by simpa [State.lowestFree, List.find?_isSome] using hfree
    exact hanswered _ (serveOpen_groupClosed (s := s.serving p r none .atOnce) hg hb hfits hsome hclosing)
  · have hexec := exec_open_opens (tag := tag) hp hg hb hfits (lowestFree_eq_some hfree hlower) hclosing
    refine ⟨fun hzero => ?_, fun g hgroup => ?_⟩
    · rw [hexec, opened_of_none (by rw [hzero]; rfl)]
      rfl
    · rw [hexec, opened_of_some (groupOfTag_eq_some.mpr hgroup)]
      rfl

end Sys2Proof.Machine
end

-- ==== COMMIT refused or aborted ====
section
/-! PROOFS. COMMIT of an ungrouped session that is refused BUSY, or whose guard check fails: the abort answers the COMMIT (R50,
R52, R97, R98). -/

namespace Sys2Proof.Machine

/-- A start of relocation ends no session and reaches no port, group or committed page. -/
theorem startRelocation_calm (s : State) : s.Calm (startRelocation s) :=
  (startRelocation_background s).calm (startRelocation_samePages s)

/-- An event's sessions end, and a relocation may start after it. -/
theorem State.Ends.started {s t : State} {ended : Slot → Prop} (h : s.Ends t ended) : s.Ends (startRelocation t) ended :=
  h.trans (startRelocation_calm t).ends

/-- A session that is FREE stays FREE while others end. -/
theorem State.Ends.free {s t : State} {ended : Slot → Prop} (h : s.Ends t ended) {x : Slot}
    (hx : (s.session x).state = .free) : (t.session x).state = .free := by
  rcases h.standing x with ⟨hfree, -⟩ | ⟨hs, -⟩
  · exact hfree
  · exact hs.trans hx

section
variable {s : State} {p : PortId} {slot : Slot} {handle : Handle}

/-- The first entry that fails is the guard check's (R95, R96). -/
theorem guardFailure_some {before after : List GuardEntry} {g : GuardEntry}
    (h : (s.session slot).guards = before ++ g :: after) (hb : ∀ b ∈ before, (s.entry b.page).version = b.version)
    (hg : (s.entry g.page).version ≠ g.version) : guardFailure s slot = some g.page := by
  rw [guardFailure, h, List.find?_append, List.find?_eq_none.mpr fun b hm => by simpa using hb b hm]
  simp [hg]

/-- A COMMIT of a session that is COPYING or PARKED is refused (R97). -/
theorem serveCommit_busy (h : checkHandle p handle true s = .ok slot) (hbusy : (s.session slot).activity ≠ .idle) :
    serveCommit p handle s = respond p .busy s := by
  simp only [serveCommit, h]
  rw [if_pos hbusy]

/-- A COMMIT of an ungrouped session whose guard check fails aborts it (R98). -/
theorem serveCommit_aborts {page : LP} (h : checkHandle p handle true s = .ok slot)
    (hidle : (s.session slot).activity = .idle) (hgroup : (s.session slot).group = none)
    (hfails : guardFailure (setService p (some slot) .atOnce s) slot = some page) :
    serveCommit p handle s = startRelocation (abortSession slot (.guard page) (setService p (some slot) .atOnce s)) := by
  simp only [serveCommit, h, hidle, hgroup, hfails, ne_eq, not_true_eq_false, if_false]

theorem setService_serving (r : Request) (session : Option Slot) : setService p session .atOnce (s.serving p r none .atOnce) =
    s.serving p r session .atOnce := by
  simp [setService, State.serving]

/-- The event of a COMMIT whose guard check fails, before any request is taken after it. -/
theorem exec_commit_aborts {tag : Byte} {page : LP} (hp : s.PortFree p) (howns : s.Owns p handle slot)
    (hopen : (s.session slot).state = .opened) (hidle : (s.session slot).activity = .idle)
    (hgroup : (s.session slot).group = none) (hfails : guardFailure s slot = some page) :
    exec (.commit p tag handle) s = .next (settleUpTo s.queued (startRelocation (freeSession slot
      (abortHold slot (.guard page) (s.serving p ⟨tag, .commit handle⟩ (some slot) .atOnce))))) := by
  have hcheck : checkHandle p handle true (s.serving p ⟨tag, .commit handle⟩ none .atOnce) = .ok slot :=
    checkHandle_of_owns (s := s.serving p _ none .atOnce) howns fun _ => hopen
  have hserve := serveCommit_aborts (page := page) hcheck hidle hgroup (by rw [setService_serving]; exact hfails)
  rw [setService_serving, abortSession_ungrouped (s := s.serving p _ (some slot) .atOnce)
    (by rw [State.serving_session, hopen]; nofun) hgroup] at hserve
  exact congrArg Host.Outcome.next ((sendRequest_of_free hp rfl).trans (congrArg (settleUpTo s.queued) hserve))

end

/-- Settles O33: a busy session's COMMIT is one answer; a failing guard's abort answers it and nothing follows. -/
theorem commitRefusedOrAborted : Obligations.CommitRefusedOrAborted := by
  refine ⟨fun p tag handle slot s hp howns hopen hbusy => ?_,
    fun p tag handle slot before g after s hp howns hopen hidle hgroup hguards hbefore hg => ?_⟩
  · have hcheck : checkHandle p handle true (s.serving p ⟨tag, .commit handle⟩ none .atOnce) = .ok slot :=
      checkHandle_of_owns (s := s.serving p _ none .atOnce) howns fun _ => hopen
    exact congrArg Host.Outcome.next (sendRequest_answered hp rfl (serveCommit_busy hcheck hbusy))
  · have hexec := exec_commit_aborts (tag := tag) hp howns hopen hidle hgroup (guardFailure_some hguards hbefore hg)
    obtain ⟨w, hw⟩ : ∃ w, w = s.serving p ⟨tag, .commit handle⟩ (some slot) .atOnce := ⟨_, rfl⟩
    rw [← hw] at hexec
    have hserv : (w.port p).inService = some ⟨⟨tag, .commit handle⟩, some slot, .atOnce⟩ := by
      rw [hw, State.serving, State.setPort_port_self]
    obtain ⟨hnone, hresp, htold⟩ := abortHold_answers (s := w) (reason := .guard g.page) (hw ▸ howns.2) hserv rfl nofun nofun
    obtain ⟨u, hu⟩ : ∃ u, u = startRelocation (freeSession slot (abortHold slot (.guard g.page) w)) := ⟨_, rfl⟩
    have hports : ∀ q, u.port q = (abortHold slot (.guard g.page) w).port q := fun q => by
      rw [hu]
      exact (startRelocation_port ..).trans (State.setSession_port ..)
    have hends : w.Ends u (· = slot) := hu ▸ ((abortHold_ends w slot _).trans (freeSession_ends _ slot)).started
    have hkeeps : s.KeepsOthers u (· = slot) (fun _ => False) :=
      (hw ▸ serving_keepsOthers s p _ (some slot) .atOnce).trans hends.others
    have hlaw : u.QueueLaw := fun q => by
      rw [PortRec.waiting]
      by_cases hq : q = p
      · rw [hq, (hkeeps.ports p id).2.1, hp.queue]
        simp
      · have hwq : w.port q = s.port q := by rw [hw, State.serving, State.setPort_port_of_ne s _ hq]
        rw [hports, (htold q hq).inService, (htold q hq).requests, hwq]
        exact hp.others q
    rw [← hu, settleUpTo_of_queueLaw hlaw] at hexec
    refine ⟨u, hexec, ?_, ?_, ?_, ?_, ?_, hkeeps, ?_⟩
    · exact (State.SamePages.of_map (s := s) (t := w) (by rw [hw]; rfl)).trans hends.pages
    · rw [hu]
      exact (startRelocation_calm _).ends (ended := fun _ => False) |>.free (freeSession_free _ slot).1
    · exact (hends.generation slot).trans (by rw [hw]; rfl)
    · rw [hports, hresp, hw, State.serving, State.setPort_port_self]
      rfl
    · rw [hports, hnone]
    · rw [hu, (startRelocation_calm _).groups]
      exact (abortHold_keeps w slot _).2.1.trans (by rw [hw]; rfl)

end Sys2Proof.Machine
end

-- ==== The abort of a group ====
section
/-! PROOFS. The abort of a session with its group: every session that ends is FREE, the group is IDLE, and a port whose request
in service names none of them keeps it (R50, R51, R120). -/

namespace Sys2Proof.Machine

/-! ### The sessions that end -/

section
variable {s t : State} {g : GroupIx} {slot : Slot}

theorem abortMember_free (s : State) (slot : Slot) : ((abortMember slot s).session slot).state = .free := by
  simp only [abortMember]
  split
  · assumption
  · exact (freeSession_free _ slot).1

theorem abortMembers_free (s : State) {l : List Slot} {x : Slot} (hx : x ∈ l) :
    ((l.foldl (fun t m => abortMember m t) s).session x).state = .free := by
  induction l generalizing s with
  | nil => cases hx
  | cons m l ih =>
    rw [List.foldl_cons]
    rcases List.mem_cons.mp hx with rfl | hx
    · exact (abortMembers_ends _ l).free (abortMember_free s x)
    · exact ih _ hx

/-- A group with its other members aborted, IDLE and empty, its outcome still to be told (R51, R120). -/
def dissolve (g : GroupIx) (first : Slot) (s : State) : State :=
  (((s.group g).members.filter (· ≠ first)).foldl (fun t m => abortMember m t) s).setGroup g GroupRec.reset

/-- The closer port of a group that was CLOSING is told of its abort, and no other (R121). -/
theorem abortGroup_eq (g : GroupIx) (first : Slot) (reason : AbortReason) (s : State) :
    (∃ p, (s.group g).state = .closing ∧ (s.group g).closer = some p ∧ abortGroup g first reason s =
      queueNotice p (.groupResult g (.aborted ((dissolve g first s).handle first) reason)) (dissolve g first s)) ∨
    ((∀ p, (s.group g).state = .closing → (s.group g).closer ≠ some p) ∧ abortGroup g first reason s = dissolve g first s) := by
  simp only [abortGroup]
  split
  · next p hstate hcloser => exact .inl ⟨p, hstate, hcloser, rfl⟩
  · next h => exact .inr ⟨h, rfl⟩

theorem abortGroup_calm (g : GroupIx) (first : Slot) (reason : AbortReason) (s : State) :
    (dissolve g first s).Calm (abortGroup g first reason s) := by
  rcases abortGroup_eq g first reason s with ⟨p, -, -, h⟩ | ⟨-, h⟩
  · exact h ▸ queueNotice_calm ..
  · exact h ▸ calm_refl _

/-- The abort of a session in a group. -/
theorem abortSession_grouped (hs : (s.session slot).state ≠ .free) (hg : (s.session slot).group = some g)
    (reason : AbortReason) :
    abortSession slot reason s = freeSession slot (abortGroup g slot reason (abortHold slot reason s)) := by
  rw [abortSession, if_neg hs]
  simp only [hg]

theorem abortHold_group (s : State) (slot : Slot) (reason : AbortReason) (g : GroupIx) :
    (abortHold slot reason s).group g = s.group g := by
  simp only [State.group, (abortHold_keeps s slot reason).2.1]

/-- All that ends with an aborted session is FREE. -/
theorem abortSession_frees (hs : (s.session slot).state ≠ .free) (reason : AbortReason) {x : Slot} (hx : s.EndsWith x slot) :
    ((abortSession slot reason s).session x).state = .free := by
  by_cases hne : x = slot
  · rw [hne]
    exact abortSession_free s slot reason
  obtain ⟨g, hg, hmem⟩ := hx.resolve_left hne
  rw [abortSession_grouped hs hg]
  refine (freeSession_ends _ slot).free ((abortGroup_calm ..).ends (ended := fun _ => False) |>.free ?_)
  have hfree := abortMembers_free (abortHold slot reason s) (l := (s.group g).members.filter (· ≠ slot))
    (List.mem_filter.mpr ⟨hmem, decide_eq_true hne⟩)
  rw [dissolve, abortHold_group]
  exact hfree

theorem abortSession_disbands (hs : (s.session slot).state ≠ .free) (hg : (s.session slot).group = some g)
    (reason : AbortReason) : (abortSession slot reason s).group g = GroupRec.reset := by
  have hcalm := (abortGroup_calm g slot reason (abortHold slot reason s)).groups
  rw [abortSession_grouped hs hg]
  show (abortGroup g slot reason (abortHold slot reason s)).group g = _
  simp only [State.group, hcalm]
  exact State.setGroup_group_self ..

/-- The members of a group have ended, the group is IDLE and empty, and nothing else of what an abort leaves alone changes. -/
structure State.GroupEnded (s t : State) (g : GroupIx) : Prop where
  ends  : s.Ends t (· ∈ (s.group g).members)
  free  : ∀ m ∈ (s.group g).members, (t.session m).state = .free
  group : t.group g = GroupRec.reset

theorem State.GroupEnded.calm {u : State} (h : s.GroupEnded t g) (h' : t.Calm u) : s.GroupEnded u g where
  ends := h.ends.trans h'.ends
  free m hm := h'.ends (ended := fun _ => False) |>.free (h.free m hm)
  group := by simpa only [State.group, h'.groups] using h.group

/-- A group ends also as seen from before its request was taken into service. -/
theorem State.GroupEnded.of_serving {p : PortId} {r : Request} {session : Option Slot} {stage : Stage}
    (h : (s.serving p r session stage).GroupEnded t g) :
    (∀ m ∈ (s.group g).members, (t.session m).state = .free ∧ (t.session m).generation = (s.session m).generation) ∧
      t.group g = { state := .idle, members := [], closer := none } ∧ s.SamePages t ∧
      s.KeepsOthers t (· ∈ (s.group g).members) (fun _ => False) :=
  ⟨fun m hm => ⟨h.free m hm, h.ends.generation m⟩, h.group, h.ends.pages,
   (serving_keepsOthers s p r session stage).trans h.ends.others⟩

/-- The abort of a member is the abort of its group (R51). -/
theorem abortSession_groupEnded (hs : (s.session slot).state ≠ .free) (hg : (s.session slot).group = some g)
    (hm : slot ∈ (s.group g).members) (reason : AbortReason) : s.GroupEnded (abortSession slot reason s) g where
  ends := (abortSession_ends s slot reason).mono fun x hx => by
    rcases hx with rfl | ⟨g', hg', hx⟩
    · exact hm
    · rw [hg] at hg'
      cases hg'
      exact hx
  free m hmem := abortSession_frees hs reason (.inr ⟨g, hg, hmem⟩)
  group := abortSession_disbands hs hg reason

end

/-! ### The ports that are told at most -/

section
variable {s t : State} {q : PortId} {slot : Slot} {reason : AbortReason}

theorem PortRec.Told.serviceNaming (h : (s.port q).Told (t.port q)) (x : Slot) :
    t.serviceNaming q x = s.serviceNaming q x := by
  rw [State.serviceNaming, State.serviceNaming, h.inService]

theorem setPort_told_of_ne {p : PortId} (hq : q ≠ p) (r : PortRec) : (s.port q).Told ((s.setPort p r).port q) := by
  rw [State.setPort_port_of_ne s r hq]
  exact .refl _

theorem respond_told_of_ne {p : PortId} (hq : q ≠ p) (a : Answer) : (s.port q).Told ((respond p a s).port q) := by
  simp only [respond]
  split
  · exact .refl _
  · exact setPort_told_of_ne hq _

theorem setService_told_of_ne {p : PortId} (hq : q ≠ p) (session : Option Slot) (stage : Stage) :
    (s.port q).Told ((setService p session stage s).port q) := by
  simp only [setService]
  split
  · exact .refl _
  · exact setPort_told_of_ne hq _

theorem stopService_told_of_ne {p : PortId} (hq : q ≠ p) (r : InService) :
    (s.port q).Told ((stopService p r s).port q) := by
  simp only [stopService]
  split
  · exact .refl _
  · exact (setService_told_of_ne hq ..).trans ((unpinAll_background ..).ports q)
  · exact setService_told_of_ne hq ..
  · exact setService_told_of_ne hq ..

variable (h : s.serviceNaming q slot = none)
include h

theorem abortService_told : (s.port q).Told ((abortService slot s).port q) := by
  simp only [abortService]
  split
  · exact .refl _
  · split
    · exact .refl _
    · next hr => exact stopService_told_of_ne (fun hq => by rw [← hq, h] at hr; cases hr) _

theorem abortReport_told (hr : reason ≠ .requested) : (s.port q).Told ((abortReport slot reason s).port q) := by
  simp only [abortReport]
  split
  · exact .refl _
  · split
    · exact .refl _
    · exact absurd rfl hr
    · split
      · next hr => exact respond_told_of_ne (fun hq => by rw [← hq, h] at hr; cases hr) _
      · exact (queueNotice_background ..).ports q

/-- A port whose request in service does not name an aborted session is told at most. -/
theorem abortHold_told (hr : reason ≠ .requested) : (s.port q).Told ((abortHold slot reason s).port q) := by
  have hbefore : (s.port q).Told ((modifySession slot (fun r => { r with guards := [] })
      (withdraw slot (s.session slot).shadows (abortService slot s))).port q) :=
    (abortService_told h).trans ((withdraw_background ..).ports q)
  rw [abortHold_eq]
  exact hbefore.trans (abortReport_told ((hbefore.serviceNaming slot).trans h) hr)

theorem abortMember_told : (s.port q).Told ((abortMember slot s).port q) := by
  simp only [abortMember]
  split
  · exact .refl _
  · exact abortHold_told h nofun

omit h

theorem abortMembers_told {l : List Slot} (h : ∀ x ∈ l, s.serviceNaming q x = none) :
    (s.port q).Told ((l.foldl (fun t m => abortMember m t) s).port q) := by
  induction l generalizing s with
  | nil => exact .refl _
  | cons m l ih =>
    have hm := abortMember_told (h m (List.mem_cons_self ..))
    exact hm.trans (ih fun x hx => (hm.serviceNaming x).trans (h x (List.mem_cons_of_mem _ hx)))

theorem abortGroup_told {g : GroupIx} {first : Slot}
    (h : ∀ x ∈ (s.group g).members, x ≠ first → s.serviceNaming q x = none) :
    (s.port q).Told ((abortGroup g first reason s).port q) := by
  have hmembers : (s.port q).Told ((dissolve g first s).port q) :=
    abortMembers_told (l := (s.group g).members.filter (· ≠ first)) fun x hx =>
      h x (List.mem_of_mem_filter hx) (of_decide_eq_true (List.mem_filter.mp hx).2)
  rcases abortGroup_eq g first reason s with ⟨p, -, -, heq⟩ | ⟨-, heq⟩
  · rw [heq]
    exact hmembers.trans ((queueNotice_background ..).ports q)
  · rw [heq]
    exact hmembers

/-- A port whose request in service names none of a group is told at most of its abort. -/
theorem abortSession_told {g : GroupIx} (hg : (s.session slot).group = some g) (hm : slot ∈ (s.group g).members)
    (hr : reason ≠ .requested) (h : ∀ x ∈ (s.group g).members, s.serviceNaming q x = none) :
    (s.port q).Told ((abortSession slot reason s).port q) := by
  by_cases hs : (s.session slot).state = .free
  · rw [abortSession, if_pos hs]
    exact .refl _
  have hhold := abortHold_told (h slot hm) hr
  rw [abortSession_grouped hs hg]
  refine hhold.trans (abortGroup_told (reason := reason) fun x hx _ => (hhold.serviceNaming x).trans (h x ?_))
  rwa [abortHold_group] at hx

end

/-! ### ABORT and CLOSE -/

section
variable {s : State} {p : PortId} {slot : Slot} {r : Request} {g : GroupIx}

/-- The abort that an ABORT asks for answers it (R50). -/
theorem abortHold_requested (hport : (s.session slot).port = some p)
    (hserv : (s.port p).inService = some ⟨r, some slot, .atOnce⟩) (hop : isAbortOp r.op = true) :
    ((abortHold slot .requested s).port p).inService = none ∧
      ((abortHold slot .requested s).port p).responses = (s.port p).responses ++ [⟨r.tag, .done⟩] := by
  have hnaming : s.serviceNaming p slot = none := by simp [State.serviceNaming, hserv, hop]
  have hservice : abortService slot s = s := by simp only [abortService, hport, hnaming]
  have hback := withdraw_background s slot (s.session slot).shadows
  obtain ⟨u, hu⟩ : ∃ u, u = modifySession slot (fun r => { r with guards := [] })
    (withdraw slot (s.session slot).shadows s) := ⟨_, rfl⟩
  have htold : (s.port p).Told (u.port p) := hu ▸ hback.ports p
  have huport : (u.session slot).port = some p := by
    obtain ⟨-, -, hp, -⟩ := (hback.keepsOthers (ended := fun _ => False) (cleared := fun _ => False)).sessions slot id
    rw [hu, modifySession, State.setSession_session_self]
    exact hp.trans hport
  have hreport : abortReport slot .requested u = respond p .done u := by simp only [abortReport, huport]
  rw [abortHold_eq, hservice, ← hu, hreport, respond_eq_replied (htold.inService.trans hserv), replied_port, if_pos rfl,
    htold.responses]
  exact ⟨rfl, rfl⟩

/-- A request served at a free port, after which no port's queue holds a request, ends its event with its service. -/
theorem sendRequest_of_noneQueued {t : State} (hp : s.PortFree p) (hw : r.op.wellFormed = true)
    (h : serve p r.op (s.serving p r none .atOnce) = t) (ht : t.NoneQueued) : sendRequest p r s = t := by
  rw [sendRequest_of_free hp hw, h, settleUpTo_of_queueLaw]
  intro q
  simp [PortRec.waiting, ht q]

theorem State.KeepsOthers.noneQueued {t : State} {ended : Slot → Prop} (h : s.KeepsOthers t ended (fun _ => False))
    (hs : s.NoneQueued) : t.NoneQueued := fun q => (h.ports q id).2.1.trans (hs q)

/-- The state after an ABORT of a member, before anything follows its event. -/
theorem exec_abort_member {tag : Byte} {handle : Handle} (hp : s.PortFree p) (hn : s.NoneQueued)
    (howns : s.Owns p handle slot) (hg : (s.session slot).group = some g) (hm : slot ∈ (s.group g).members) :
    ∃ t, exec (.abort p tag handle) s = .next t ∧
      (s.serving p ⟨tag, .abort handle⟩ (some slot) .atOnce).GroupEnded t g ∧
      (t.port p).responses = (s.port p).responses ++ [⟨tag, .done⟩] := by
  obtain ⟨w, hw⟩ : ∃ w, w = s.serving p ⟨tag, .abort handle⟩ (some slot) .atOnce := ⟨_, rfl⟩
  have hsession : w.session slot = s.session slot := hw ▸ rfl
  have hstate : (w.session slot).state ≠ .free := hsession ▸ owns_not_free howns
  have hgroup : (w.session slot).group = some g := hsession ▸ hg
  have hserv : w.port p = { (s.port p).took (requestSize ⟨tag, .abort handle⟩) with
      inService := some ⟨⟨tag, .abort handle⟩, some slot, .atOnce⟩ } := by
    rw [hw, State.serving, State.setPort_port_self]
  have hended := (abortSession_groupEnded hstate hgroup (hw ▸ hm) .requested).calm (startRelocation_calm _)
  have hcheck : checkHandle p handle false (s.serving p ⟨tag, .abort handle⟩ none .atOnce) = .ok slot :=
    checkHandle_of_owns (s := s.serving p _ none .atOnce) howns nofun
  have hserve : serve p (.abort handle) (s.serving p ⟨tag, .abort handle⟩ none .atOnce) =
      startRelocation (abortSession slot .requested w) := by
    simp only [serve, serveAbort, hcheck, setService_serving, hw]
  have hserving : s.KeepsOthers w (· ∈ (w.group g).members) (fun _ => False) := hw ▸ serving_keepsOthers ..
  have hqueued := (hserving.trans hended.ends.others).noneQueued hn
  refine ⟨_, congrArg Host.Outcome.next (sendRequest_of_noneQueued hp rfl hserve hqueued), hw ▸ hended, ?_⟩
  obtain ⟨hnone, hresp⟩ := abortHold_requested (s := w) (hsession ▸ howns.2) (by rw [hserv]) rfl
  have htold := abortGroup_told (s := abortHold slot .requested w) (q := p) (g := g) (first := slot) (reason := .requested)
    fun x _ _ => by simp [State.serviceNaming, hnone]
  rw [startRelocation_port, abortSession_grouped hstate hgroup]
  exact htold.responses.trans (hresp.trans (by rw [hserv]; rfl))

/-- The group guard check finds the first member with a failing entry (R116). -/
theorem groupGuardFailure_some {before after : List Slot} {m : Slot} {page : LP}
    (hbefore : ∀ b ∈ before, guardFailure s b = none) (hm : guardFailure s m = some page) :
    groupGuardFailure s (before ++ m :: after) = some (m, page) := by
  rw [groupGuardFailure, List.findSome?_append,
    List.findSome?_eq_none_iff.mpr fun b hb => by rw [hbefore b hb, Option.map_none]]
  simp [hm]

/-- A CLOSE of a group whose members are all READY resolves it (R114). -/
theorem serveClose_resolves {group : Byte} (hg : groupOfTag group = some g) (hstate : (s.group g).state = .gathering)
    (hready : s.allReady g = true) : serveClose p group s = startRelocation (resolveGroup g (some p) s) := by
  simp only [serveClose, hg, hstate, hready, if_true]

/-- The event of a CLOSE whose guard check fails at a member. -/
theorem exec_close_aborts {tag group : Byte} {page : LP} (hp : s.PortFree p) (hn : s.NoneQueued)
    (hgroup : group.toNat = g.val + 1) (hstate : (s.group g).state = .gathering) (hready : s.allReady g = true)
    (hslot : (s.session slot).state ≠ .free) (hg : (s.session slot).group = some g) (hm : slot ∈ (s.group g).members)
    (hfails : groupGuardFailure s (s.group g).members = some (slot, page)) :
    ∃ t, exec (.close p tag group) s = .next t ∧ (s.serving p ⟨tag, .close group⟩ none .atOnce).GroupEnded t g ∧
      (t.port p).responses = (s.port p).responses ++ [⟨tag, .aborted (.guard page)⟩] := by
  obtain ⟨w, hw⟩ : ∃ w, w = s.serving p ⟨tag, .close group⟩ none .atOnce := ⟨_, rfl⟩
  have hserv : w.port p = { (s.port p).took (requestSize ⟨tag, .close group⟩) with
      inService := some ⟨⟨tag, .close group⟩, none, .atOnce⟩ } := by
    rw [hw, State.serving, State.setPort_port_self]
  have hresolve : resolveGroup g (some p) w = respond p (.aborted (.guard page)) (abortSession slot (.guard page) w) := by
    have hfails' : groupGuardFailure w (w.group g).members = some (slot, page) := hw ▸ hfails
    simp only [resolveGroup, hfails']
  have hserve : serve p (.close group) (s.serving p ⟨tag, .close group⟩ none .atOnce) =
      startRelocation (respond p (.aborted (.guard page)) (abortSession slot (.guard page) w)) := by
    rw [← hresolve, hw]
    exact serveClose_resolves (s := s.serving p ⟨tag, .close group⟩ none .atOnce) (groupOfTag_eq_some.mpr hgroup) hstate hready
  have hsession : w.session slot = s.session slot := hw ▸ rfl
  have hmem : slot ∈ (w.group g).members := hw ▸ hm
  have hended := ((abortSession_groupEnded (hsession ▸ hslot) (hsession ▸ hg) hmem (.guard page)).calm
    (respond_calm _ p (.aborted (.guard page)))).calm (startRelocation_calm _)
  have hserving : s.KeepsOthers w (· ∈ (w.group g).members) (fun _ => False) := hw ▸ serving_keepsOthers ..
  have hqueued := (hserving.trans hended.ends.others).noneQueued hn
  refine ⟨_, congrArg Host.Outcome.next (sendRequest_of_noneQueued hp rfl hserve hqueued), hw ▸ hended, ?_⟩
  have htold := abortSession_told (s := w) (slot := slot) (q := p) (reason := .guard page) (hsession ▸ hg) hmem nofun
    fun x _ => by simp [State.serviceNaming, hserv]
  have hservice : ((abortSession slot (.guard page) w).port p).inService = some ⟨⟨tag, .close group⟩, none, .atOnce⟩ := by
    rw [htold.inService, hserv]
  rw [startRelocation_port, respond_eq_replied hservice, replied_port, if_pos rfl, htold.responses, hserv]
  rfl

end

/-- Settles O37: the abort of the member asked for, and of the member whose guard fails first, is the abort of the group. -/
theorem groupAbortsWhole : Obligations.GroupAbortsWhole := by
  intro p tag g s hp hn hmembers aborted
  refine ⟨fun handle slot howns hm => ?_, fun group before m after pre e post hgroup hstate hready hsplit hbefore hguards hpre
    he => ?_⟩
  · obtain ⟨t, hexec, hended, hresp⟩ := exec_abort_member (tag := tag) hp hn howns (hmembers slot hm).1 hm
    exact ⟨t, hexec, hended.of_serving, hresp⟩
  · have hm : m ∈ (s.group g).members := by simp [hsplit]
    obtain ⟨hg, hfree⟩ := hmembers m hm
    have hfails := groupGuardFailure_some (after := after) (fun b hb => guardFailure_none (hbefore b hb))
      (guardFailure_some hguards hpre he)
    rw [← hsplit] at hfails
    have hall : s.allReady g = true := List.all_eq_true.mpr fun x hx => decide_eq_true (hready x hx)
    obtain ⟨t, hexec, hended, hresp⟩ := exec_close_aborts (tag := tag) hp hn hgroup hstate hall hfree hg hm hfails
    exact ⟨t, hexec, hended.of_serving, hresp⟩

end Sys2Proof.Machine
end

-- ==== Ports that are told once ====
section
/-! PROOFS. What the operations of an abort and of an apply leave of a port that takes no fault notices, and the withdrawal of a
session whose pages no write waits for (R48, R84, R135). -/

namespace Sys2Proof.Machine

/-! ### Ports that take no fault notices -/

section
variable (s : State) {q : PortId}

/-- A notice reaches its own port alone. -/
theorem queueNotice_port_of_ne {p : PortId} (hq : q ≠ p) (body : NoticeBody) : (queueNotice p body s).port q = s.port q := by
  simp only [queueNotice]
  split <;> exact State.setPort_port_of_ne s _ hq

/-- What a notice makes of a port depends on the settings and on the ports alone. -/
theorem queueNotice_port_congr {t : State} {p : PortId} {body : NoticeBody} (hsettings : t.settings = s.settings)
    (hp : t.port p = s.port p) (hq : t.port q = s.port q) : (queueNotice p body t).port q = (queueNotice p body s).port q := by
  simp only [queueNotice, hp, hsettings]
  split <;> simp only [State.setPort_port, hq]

/-- A fold leaves a port without fault notices where each of its steps does. -/
theorem foldl_port {β : Type} {f : State → β → State} (hsettings : ∀ t b, (f t b).settings = t.settings)
    (hport : ∀ (t : State) b, t.settings.faultNotices[q] = false → (f t b).port q = t.port q) (l : List β)
    (h : s.settings.faultNotices[q] = false) : (l.foldl f s).port q = s.port q := by
  induction l generalizing s with
  | nil => rfl
  | cons b l ih => exact (ih (f s b) (by rw [hsettings]; exact h)).trans (hport s b h)

variable (h : s.settings.faultNotices[q] = false)
include h

theorem faultNotices_port (seq : BitVec 16) (kind : FaultKind) : (faultNotices seq kind s).port q = s.port q := by
  unfold faultNotices
  refine foldl_port s (fun t p => by split <;> simp) (fun t p _ => ?_) _ h
  split
  · next hp => exact queueNotice_port_of_ne t (fun hq => by rw [← hq, h] at hp; cases hp) _
  · rfl

theorem appendRecord_port (kind : FaultKind) (pf : PF) (word : Option WordIx) (syn : Option Syndrome)
    (context : Option ReadContext) (page : Option LP) (handle : Option Handle) :
    (appendRecord kind pf word syn context page handle s).port q = s.port q := by
  simp only [appendRecord]
  refine (faultNotices_port _ ?_ _ _).trans rfl
  exact h

theorem retireFrame_port (pf : PF) : (retireFrame pf s).port q = s.port q :=
  appendRecord_port (s.setFrame pf { s.frame pf with state := .retired, owner := none }) h ..

theorem releaseFrame_port (pf : PF) : (releaseFrame pf s).port q = s.port q := by
  simp only [releaseFrame]
  split
  · split
    · rfl
    · split
      · exact retireFrame_port s h pf
      · rfl
  · rfl

theorem unpinFrame_port (pf : PF) : (unpinFrame pf s).port q = s.port q := by
  simp only [unpinFrame]
  split
  · split
    · exact retireFrame_port (s.setFrame pf _) h pf
    · rfl
  · rfl

theorem unpinAll_port (pfs : List PF) : (unpinAll pfs s).port q = s.port q :=
  foldl_port s (fun t pf => by simp) (fun t pf ht => unpinFrame_port t ht pf) pfs h

theorem cancelSessionJob_port (slot : Slot) : (cancelSessionJob slot s).port q = s.port q := by
  simp only [cancelSessionJob]
  split
  · rfl
  · split
    · rfl
    · exact unpinFrame_port { s with jobs := s.jobs.eraseP _ } h _

theorem abandonRelocation_port (page : LP) : (abandonRelocation page s).port q = s.port q := by
  simp only [abandonRelocation, State.setEntry_port]
  split
  · rfl
  · next job _ =>
    split
    · exact releaseFrame_port { s with jobs := s.jobs.eraseP _ } h _
    · next source _ =>
      refine (releaseFrame_port _ ?_ _).trans (unpinFrame_port { s with jobs := s.jobs.eraseP _ } h source)
      simpa using h

theorem dropShadows_port (l : List ShadowEntry) : (l.foldl (fun t e => dropShadow e t) s).port q = s.port q :=
  foldl_port s (fun t e => by simp) (fun t e ht => releaseFrame_port (t.setEntry ..) ht _) l h

theorem switchEntry_port (e : ShadowEntry) : (switchEntry e s).port q = s.port q := by
  have hclear : (clearRelocation e.page s).port q = s.port q := by
    simp only [clearRelocation]
    split
    · exact abandonRelocation_port s h _
    · rfl
  have hsettings : (clearRelocation e.page s).settings = s.settings := by
    simp only [clearRelocation]
    split
    · exact (abandonRelocation_background ..).settings
    · rfl
  rw [switchEntry_eq, releaseFrame_port _ (by simpa [hsettings] using h)]
  simpa using hclear

theorem switchEntries_port (l : List ShadowEntry) : (l.foldl (fun t e => switchEntry e t) s).port q = s.port q :=
  foldl_port s (fun t e => (switchEntry_background t e).settings) (fun t e ht => switchEntry_port t ht e) l h

/-- A request in service stops using the store; its port is otherwise as it was. -/
theorem stopService_port {r : InService} (hr : (s.port q).inService = some r) :
    (stopService q r s).port q = { s.port q with inService := some { r with stage := .atOnce } } := by
  have hservice : (setService q r.session .atOnce s).port q =
      { s.port q with inService := some { r with stage := .atOnce } } := by
    simp only [setService, hr, State.setPort_port_self]
  simp only [stopService]
  split
  · next hstage => rw [← hstage, ← hr]
  · rw [unpinAll_port _ (by simpa using h), hservice]
  · exact hservice
  · exact hservice

end

/-! ### The withdrawal of a session whose pages no write waits for -/

section
variable {s : State} {slot : Slot} {l : List ShadowEntry}

/-- No write waits for a page of a list of shadows. -/
def State.NoWaiter (s : State) (l : List ShadowEntry) : Prop := ∀ w ∈ s.waits, ∀ e ∈ l, w.page ≠ e.page

theorem offerClaims_of_noWaiter (h : s.NoWaiter l) : l.foldl (fun t e => offerClaim e.page t) s = s := by
  induction l with
  | nil => rfl
  | cons e l ih =>
    rw [List.foldl_cons, offerClaim_of_no_waiter fun w hw => h w hw e (List.mem_cons_self ..)]
    exact ih fun w hw x hx => h w hw x (List.mem_cons_of_mem _ hx)

theorem abortWait_waits_sublist (s : State) (slot : Slot) : (abortWait slot s).waits.Sublist s.waits := by
  simp only [abortWait]
  split
  · exact List.filter_sublist
  · exact .refl _

theorem abortWait_session_of_ne (s : State) {x : Slot} (h : x ≠ slot) : (abortWait slot s).session x = s.session x := by
  simp only [abortWait]
  split
  · exact endWait_session_of_ne h
  · rfl

theorem dropShadows_sessions (s : State) (l : List ShadowEntry) :
    (l.foldl (fun t e => dropShadow e t) s).sessions = s.sessions :=
  foldl_keeps State.sessions _ (fun t e => by simp [dropShadow]) _ _

/-- With no writer waiting the shadows are dropped and no claim is granted. -/
theorem withdraw_of_noWaiter (h : s.NoWaiter l) :
    withdraw slot l s = l.foldl (fun t e => dropShadow e t) (abortWait slot (cancelSessionJob slot s)) := by
  refine offerClaims_of_noWaiter fun w hw => h w ?_
  rw [(dropShadows_frame ..).2] at hw
  simpa using (abortWait_waits_sublist _ _).subset hw

/-- A withdrawal that grants nothing changes no other session, and ends no other wait. -/
theorem withdraw_leaves (h : s.NoWaiter l) : (∀ x, x ≠ slot → (withdraw slot l s).session x = s.session x) ∧
    (withdraw slot l s).waits.Sublist s.waits := by
  rw [withdraw_of_noWaiter h]
  refine ⟨fun x hx => ?_, ?_⟩
  · rw [show (l.foldl (fun t e => dropShadow e t) (abortWait slot (cancelSessionJob slot s))).session x =
      (abortWait slot (cancelSessionJob slot s)).session x by simp only [State.session, dropShadows_sessions]]
    exact (abortWait_session_of_ne _ hx).trans (by simp)
  · rw [(dropShadows_frame ..).2]
    simpa using abortWait_waits_sublist (cancelSessionJob slot s) slot

/-- A withdrawal that grants nothing leaves a port without fault notices. -/
theorem withdraw_port (h : s.NoWaiter l) {q : PortId} (hq : s.settings.faultNotices[q] = false) :
    (withdraw slot l s).port q = s.port q := by
  have hwait : ∀ t : State, (abortWait slot t).port q = t.port q ∧ (abortWait slot t).settings = t.settings := fun t => by
    simp only [abortWait]
    split <;> exact ⟨rfl, rfl⟩
  rw [withdraw_of_noWaiter h, dropShadows_port _ (by simpa [hwait] using hq), (hwait _).1, cancelSessionJob_port s hq]

end

/-! ### The hold of an aborted session -/

section
variable {s : State} {slot : Slot}

/-- A session's hold on the device released, its abort still to be reported (steps 1 to 6 of R48). -/
def State.unheld (s : State) (slot : Slot) : State :=
  modifySession slot (fun r => { r with guards := [] }) (withdraw slot (s.session slot).shadows (abortService slot s))

theorem abortHold_unheld (s : State) (slot : Slot) (reason : AbortReason) :
    abortHold slot reason s = abortReport slot reason (s.unheld slot) := rfl

theorem abortService_waits (s : State) (slot : Slot) : (abortService slot s).waits = s.waits := by
  simp only [abortService]
  split
  · rfl
  · split
    · rfl
    · exact (stopService_frame ..).2.2.1

/-- The session itself keeps its owner and its handle until it is reported. -/
theorem unheld_self (s : State) (slot : Slot) : ((s.unheld slot).session slot).port = (s.session slot).port ∧
    (s.unheld slot).handle slot = s.handle slot := by
  have hcalm := (abortService_calm s slot).trans (withdraw_calm _ slot (s.session slot).shadows)
  obtain ⟨-, hgeneration, hport, -⟩ := hcalm.others.sessions slot id
  simp only [State.unheld, State.handle, modifySession, State.setSession_session_self, hgeneration, hport, and_self]

theorem unheld_settings (s : State) (slot : Slot) : (s.unheld slot).settings = s.settings :=
  ((abortService_calm s slot).trans (withdraw_calm _ slot (s.session slot).shadows)).others.settings

/-- Where no write waits for the session's pages, no other session changes and no other wait ends. -/
theorem unheld_leaves (h : s.NoWaiter (s.session slot).shadows) :
    (∀ x, x ≠ slot → (s.unheld slot).session x = s.session x) ∧ (s.unheld slot).waits.Sublist s.waits := by
  have hwaiter : (abortService slot s).NoWaiter (s.session slot).shadows := fun w hw => h w (abortService_waits s slot ▸ hw)
  obtain ⟨hsession, hwaits⟩ := withdraw_leaves (slot := slot) hwaiter
  rw [abortService_waits] at hwaits
  refine ⟨fun x hx => ?_, hwaits⟩
  rw [State.unheld, modifySession, State.setSession_session_of_ne _ _ hx, hsession x hx, abortService_session]

/-- A port without fault notices is left as the stop of the request in service leaves it. -/
theorem unheld_port (h : s.NoWaiter (s.session slot).shadows) {q : PortId} (hq : s.settings.faultNotices[q] = false) :
    (s.unheld slot).port q = (abortService slot s).port q :=
  withdraw_port (s := abortService slot s) (fun w hw => h w (abortService_waits s slot ▸ hw))
    (by rw [(abortService_calm s slot).others.settings]; exact hq)

/-- Where the request in service does not name the session, its port is told by a notice, and no other port is (R50). -/
theorem abortHold_noticed {reason : AbortReason} {p q : PortId} (h : s.NoWaiter (s.session slot).shadows)
    (hport : (s.session slot).port = some p) (hnaming : s.serviceNaming p slot = none)
    (hp : s.settings.faultNotices[p] = false) (hq : s.settings.faultNotices[q] = false) (hreset : reason ≠ .portReset)
    (hrequested : reason ≠ .requested) : (abortHold slot reason s).port q =
      (queueNotice p (.sessionAborted (s.handle slot) reason) s).port q := by
  have hservice : abortService slot s = s := by simp only [abortService, hport, hnaming]
  have hunheld : ∀ x, s.settings.faultNotices[x] = false → (s.unheld slot).port x = s.port x := fun x hx => by
    rw [unheld_port h hx, hservice]
  obtain ⟨hself, hhandle⟩ := unheld_self s slot
  have hnaming' : (s.unheld slot).serviceNaming p slot = none := by
    simpa only [State.serviceNaming, hunheld p hp] using hnaming
  have hreport : abortReport slot reason (s.unheld slot) =
      queueNotice p (.sessionAborted (s.handle slot) reason) (s.unheld slot) := by
    cases reason with
    | portReset => exact absurd rfl hreset
    | requested => exact absurd rfl hrequested
    | _ => simp only [abortReport, hself, hport, hnaming', hhandle]
  rw [abortHold_unheld, hreport]
  exact queueNotice_port_congr s (unheld_settings s slot) (hunheld p hp) (hunheld q hq)

/-- A request in service that names the session is answered by its abort, whatever stage it had come to (R50). -/
theorem abortHold_answered {reason : AbortReason} {p : PortId} {r : InService} (h : s.NoWaiter (s.session slot).shadows)
    (hport : (s.session slot).port = some p) (hnaming : s.serviceNaming p slot = some r)
    (hp : s.settings.faultNotices[p] = false) (hreset : reason ≠ .portReset) (hrequested : reason ≠ .requested) :
    ((abortHold slot reason s).port p).responses = (s.port p).responses ++ [⟨r.request.tag, .aborted reason⟩] ∧
      ((abortHold slot reason s).port p).inService = none ∧ ((abortHold slot reason s).port p).notices = (s.port p).notices ∧
      ((abortHold slot reason s).port p).overrun = (s.port p).overrun := by
  obtain ⟨hserv, hsession, hop⟩ := serviceNaming_eq_some hnaming
  have hservice : abortService slot s = stopService p r s := by simp only [abortService, hport, hnaming]
  have hunheld : (s.unheld slot).port p = { s.port p with inService := some { r with stage := .atOnce } } := by
    rw [unheld_port h hp, hservice, stopService_port s hp hserv]
  have hself := (unheld_self s slot).1
  have hnaming' : (s.unheld slot).serviceNaming p slot = some { r with stage := .atOnce } :=
    serviceNaming_of (by rw [hunheld]) hsession hop
  have hreport : abortReport slot reason (s.unheld slot) = respond p (.aborted reason) (s.unheld slot) := by
    cases reason with
    | portReset => exact absurd rfl hreset
    | requested => exact absurd rfl hrequested
    | _ => simp only [abortReport, hself, hport, hnaming']
  rw [abortHold_unheld, hreport, respond_eq_replied (r := r.request) (session := r.session) (stage := .atOnce) (by rw [hunheld]),
    replied_port, if_pos rfl, hunheld]
  exact ⟨rfl, rfl, rfl, rfl⟩

/-- A port that does not own the session is told at most of its abort. -/
theorem abortHold_told_of_ne {p q : PortId} (hport : (s.session slot).port = some p) (hq : q ≠ p) (reason : AbortReason) :
    (s.port q).Told ((abortHold slot reason s).port q) := by
  have hservice : (s.port q).Told ((abortService slot s).port q) := by
    simp only [abortService, hport]
    split
    · exact .refl _
    · exact stopService_told_of_ne hq _
  have hself : ((s.unheld slot).session slot).port = some p := (unheld_self s slot).1.trans hport
  have hreport : ((s.unheld slot).port q).Told ((abortReport slot reason (s.unheld slot)).port q) := by
    simp only [abortReport, hself]
    split
    · exact .refl _
    · exact respond_told_of_ne hq _
    · split
      · exact respond_told_of_ne hq _
      · exact (queueNotice_background ..).ports q
  exact (hservice.trans ((withdraw_background ..).ports q)).trans hreport

end

end Sys2Proof.Machine
end

-- ==== TICK and EXPIRY ====
section
/-! PROOFS. TICK and EXPIRY: the budgets are counted down, the sessions that have none left expire, and their ports are told
(R45, R46, R50, R137). -/

namespace Sys2Proof.Machine

/-! ### The handle of a slot that became FREE -/

/-- A handle names the slot it is made of. -/
theorem slotOfHandle_handleOf : ∀ (generation : BitVec 4) (slot : Slot), slotOfHandle (handleOf generation slot) = slot := by
  decide

section
variable {s t : State} {slot : Slot}

/-- The handle of a session that has ended is stale (R42). -/
theorem named_of_free (hgeneration : (t.session slot).generation = (s.session slot).generation)
    (hfree : (t.session slot).state = .free) : t.named (s.handle slot) = none := by
  simp [State.named, State.handle, hgeneration, slotOfHandle_handleOf, hfree]

/-! ### The sessions that expire -/

/-- A session has no budget left (R46). -/
def State.Expired (s : State) (slot : Slot) : Prop := (s.session slot).state ≠ .free ∧ (s.session slot).budget = 0

/-- The sessions of a list that have expired are aborted one after another. -/
def expireSlots (l : List Slot) (s : State) : State :=
  l.foldl (fun t slot =>
    if (t.session slot).state ≠ .free ∧ (t.session slot).budget = 0 then abortSession slot .expired t else t) s

theorem expireSessions_eq (s : State) : expireSessions s = expireSlots (List.finRange 8) s := rfl

theorem expireSlots_cons_of_expired (h : s.Expired slot) (l : List Slot) :
    expireSlots (slot :: l) s = expireSlots l (abortSession slot .expired s) := congrArg (expireSlots l) (if_pos h)

theorem expireSlots_cons_of_not_expired (h : ¬ s.Expired slot) (l : List Slot) :
    expireSlots (slot :: l) s = expireSlots l s := congrArg (expireSlots l) (if_neg h)

theorem expireSlots_append (before after : List Slot) (s : State) :
    expireSlots (before ++ after) s = expireSlots after (expireSlots before s) := List.foldl_append ..

/-- No session expires by the abort of another. -/
theorem State.Expired.of_abort (hs : (s.session slot).state ≠ .free) {reason : AbortReason} {x : Slot}
    (h : (abortSession slot reason s).Expired x) : s.Expired x := by
  by_cases hx : s.EndsWith x slot
  · exact absurd (abortSession_frees hs reason hx) h.1
  · obtain ⟨hstate, -, -, -, hbudget, -⟩ := (abortSession_ends s slot reason).others.sessions x hx
    exact ⟨hstate ▸ h.1, hbudget ▸ h.2⟩

theorem expireSlots_ends (l : List Slot) (s : State) :
    s.Ends (expireSlots l s) (fun x => ∃ first, s.Expired first ∧ s.EndsWith x first) := by
  induction l generalizing s with
  | nil => exact (calm_refl s).ends
  | cons slot l ih =>
    by_cases hexpired : s.Expired slot
    · have habort := abortSession_ends s slot .expired
      rw [expireSlots_cons_of_expired hexpired]
      exact (habort.mono fun x hx => ⟨slot, hexpired, hx⟩).trans
        ((ih _).mono fun x ⟨first, hfirst, hx⟩ => ⟨first, hfirst.of_abort hexpired.1, habort.endsWith hx⟩)
    · rw [expireSlots_cons_of_not_expired hexpired]
      exact ih s

/-- A session that had expired is FREE after its turn, by its own abort or by that of its group. -/
theorem expireSlots_free {l : List Slot} {x : Slot} (hx : x ∈ l) (h : s.Expired x ∨ (s.session x).state = .free) :
    ((expireSlots l s).session x).state = .free := by
  induction l generalizing s with
  | nil => cases hx
  | cons slot l ih =>
    by_cases hexpired : s.Expired slot
    · rw [expireSlots_cons_of_expired hexpired]
      by_cases hends : s.EndsWith x slot
      · exact (expireSlots_ends l _).free (abortSession_frees hexpired.1 _ hends)
      · have hmem := (List.mem_cons.mp hx).resolve_left fun hne => hends (.inl hne)
        obtain ⟨hstate, -, -, -, hbudget, -⟩ := (abortSession_ends s slot .expired).others.sessions x hends
        exact ih hmem (h.imp (fun h => ⟨hstate ▸ h.1, hbudget.trans h.2⟩) hstate.trans)
    · rw [expireSlots_cons_of_not_expired hexpired]
      rcases List.mem_cons.mp hx with rfl | hmem
      · exact (expireSlots_ends l s).free (h.resolve_left hexpired)
      · exact ih hmem h

theorem expireSlots_of_none {l : List Slot} (h : ∀ x ∈ l, ¬ s.Expired x) : expireSlots l s = s := by
  induction l with
  | nil => rfl
  | cons slot l ih =>
    rw [expireSlots_cons_of_not_expired (h slot (List.mem_cons_self ..))]
    exact ih fun x hx => h x (List.mem_cons_of_mem _ hx)

/-- Where one session alone has expired, its abort is all. -/
theorem expireSessions_one (hs : s.Expired slot) (hothers : ∀ other, other ≠ slot → ¬ s.Expired other) :
    expireSessions s = abortSession slot .expired s := by
  obtain ⟨before, after, hsplit⟩ := List.append_of_mem (List.mem_finRange slot)
  have hnodup : (before ++ slot :: after).Nodup := hsplit ▸ List.nodup_finRange 8
  have hbefore : ∀ x ∈ before, ¬ s.Expired x := fun x hx =>
    hothers x fun heq => (List.nodup_append.mp hnodup).2.2 x hx slot (List.mem_cons_self ..) heq
  have hafter : ∀ x ∈ after, ¬ (abortSession slot .expired s).Expired x := fun x _ hx => by
    by_cases heq : x = slot
    · exact hx.1 (heq ▸ abortSession_free s slot .expired)
    · exact hothers x heq (hx.of_abort hs.1)
  rw [expireSessions_eq, hsplit, expireSlots_append, expireSlots_of_none hbefore, expireSlots_cons_of_expired hs,
    expireSlots_of_none hafter]

/-- The sessions that had expired are FREE after the expiries, and their handles stale. -/
theorem expireSessions_frees (hs : s.Expired slot) : ((expireSessions s).session slot).state = .free ∧
    ((expireSessions s).session slot).generation = (s.session slot).generation :=
  ⟨expireSlots_free (List.mem_finRange slot) (.inl hs), (expireSlots_ends _ s).generation slot⟩

/-! ### The count of a tick -/

/-- A tick brings the budgets of 1 to 0. -/
theorem lowerBudgets_expired : (lowerBudgets s).Expired slot ↔ (s.session slot).state ≠ .free ∧ (s.session slot).budget ≤ 1 := by
  rw [State.Expired, lowerBudgets_session]
  split
  · next hfree => simp [hfree]
  · rw [Nat.sub_eq_zero_iff_le]

theorem lowerBudgets_handle (s : State) (slot : Slot) : (lowerBudgets s).handle slot = s.handle slot := by
  rw [State.handle, lowerBudgets_session]
  split <;> rfl

theorem visitFrame_frame (s : State) : (visitFrame s).sessions = s.sessions ∧ (visitFrame s).ports = s.ports := by
  unfold visitFrame
  split <;> exact ⟨rfl, rfl⟩

theorem tickTimer_frame (s : State) : (tickTimer s).sessions = s.sessions ∧ (tickTimer s).ports = s.ports := by
  simp only [tickTimer]
  split
  · exact ⟨rfl, rfl⟩
  · split
    · exact visitFrame_frame s
    · exact ⟨rfl, rfl⟩

theorem tickTimer_of_running (h : ∀ n, s.timer = some n → 2 ≤ n) :
    tickTimer s = { s with timer := s.timer.map (· - 1) } := by
  unfold tickTimer
  split
  · next hnone =>
    rw [hnone]
    exact congrArg (fun timer => { s with timer := timer }) hnone
  · next n hsome => rw [if_neg (by have := h n hsome; omega), hsome]; rfl

/-- A session that an event has ended is FREE and its handle stale also after a relocation has started. -/
theorem startRelocation_stale {u : State} (hgeneration : (u.session slot).generation = (s.session slot).generation)
    (hfree : (u.session slot).state = .free) : ((startRelocation u).session slot).state = .free ∧
      ((startRelocation u).session slot).generation = (s.session slot).generation ∧
      (startRelocation u).named (s.handle slot) = none := by
  have hends := (startRelocation_calm u).ends (ended := fun _ => False)
  have hgeneration' := (hends.generation slot).trans hgeneration
  exact ⟨hends.free hfree, hgeneration', named_of_free hgeneration' (hends.free hfree)⟩

/-! ### The report of an expiry -/

/-- What is said of the port whose session alone has expired. -/
structure State.ExpiryTold (s t : State) (p : PortId) (slot : Slot) : Prop where
  queueLaw : t.QueueLaw
  noticed  : s.serviceNaming p slot = none →
    (t.port p).responses = (s.port p).responses ∧ (t.port p).inService = (s.port p).inService ∧
    ((s.port p).notices.length < 8 →
      (t.port p).notices = (s.port p).notices ++ [⟨.sessionAborted (s.handle slot) .expired, (s.port p).overrun⟩] ∧
      (t.port p).overrun = false) ∧
    (8 ≤ (s.port p).notices.length → (t.port p).notices = (s.port p).notices ∧ (t.port p).overrun = true)
  answered : ∀ r, s.serviceNaming p slot = some r →
    (t.port p).responses = (s.port p).responses ++ [⟨r.request.tag, .aborted .expired⟩] ∧
    (t.port p).inService = none ∧ (t.port p).notices = (s.port p).notices ∧ (t.port p).overrun = (s.port p).overrun

theorem State.ExpiryTold.of_ports {u : State} {p : PortId} (h : s.ExpiryTold t p slot) (hports : u.ports = t.ports) :
    s.ExpiryTold u p slot := by
  have hport : ∀ q, u.port q = t.port q := fun q => by simp only [State.port, hports]
  refine ⟨fun q => ?_, ?_, ?_⟩
  · rw [hport]
    exact h.queueLaw q
  · rw [hport]
    exact h.noticed
  · rw [hport]
    exact h.answered

/-- The port of a session that alone has expired is told by the first way of R50 that fits. -/
theorem expireSessions_told {p : PortId} (hq : s.QueueLaw) (hs : s.Expired slot)
    (hothers : ∀ other, other ≠ slot → ¬ s.Expired other) (hport : (s.session slot).port = some p)
    (hgroup : (s.session slot).group = none) (hwaiter : s.NoWaiter (s.session slot).shadows)
    (hnotices : s.settings.faultNotices[p] = false) (hrequests : (s.port p).requests = []) :
    s.ExpiryTold (expireSessions s) p slot := by
  have habort : (expireSessions s).ports = (abortHold slot .expired s).ports := by
    rw [expireSessions_one hs hothers, abortSession_ungrouped hs.1 hgroup]
    rfl
  refine State.ExpiryTold.of_ports ⟨fun q => ?_, fun hnaming => ?_, fun r hnaming => ?_⟩ habort
  · by_cases hqp : q = p
    · have hrequests' := ((abortHold_ends s slot .expired).others.ports p id).2.1.trans hrequests
      rw [hqp, PortRec.waiting, hrequests']
      simp
    · have htold := abortHold_told_of_ne hport hqp .expired
      rw [PortRec.waiting, htold.inService, htold.requests]
      exact hq q
  · rw [abortHold_noticed (reason := .expired) hwaiter hport hnaming hnotices hnotices nofun nofun]
    refine ⟨?_, ?_, fun hroom => ?_, fun hfull => ?_⟩
    · exact ((queueNotice_background ..).ports p).responses
    · exact ((queueNotice_background ..).ports p).inService
    · rw [queueNotice_of_room hroom, State.setPort_port_self]
      exact ⟨rfl, rfl⟩
    · rw [queueNotice_of_full hfull, State.setPort_port_self]
      exact ⟨rfl, rfl⟩
  · exact abortHold_answered hwaiter hport hnaming hnotices nofun nofun

/-- Nothing is taken into service after the expiry, and a relocation that starts tells no port. -/
theorem State.ExpiryTold.endEvent {p : PortId} (h : s.ExpiryTold t p slot) : s.ExpiryTold (endEvent t) p slot := by
  have hstarted := h.of_ports (startRelocation_ports t)
  rwa [Machine.endEvent, settle_of_queueLaw hstarted.queueLaw]

theorem exec_tick_told {p : PortId} (hq : s.QueueLaw) (hs : (s.session slot).state ≠ .free) (hbudget : (s.session slot).budget ≤ 1)
    (hothers : ∀ other, other ≠ slot → (s.session other).state ≠ .free → 1 < (s.session other).budget)
    (hport : (s.session slot).port = some p) (hgroup : (s.session slot).group = none)
    (hwaiter : s.NoWaiter (s.session slot).shadows) (hnotices : s.settings.faultNotices[p] = false)
    (hrequests : (s.port p).requests = []) : ∃ t, exec .tick s = .next t ∧ s.ExpiryTold t p slot := by
  have hsession : (lowerBudgets s).session slot = { s.session slot with budget := (s.session slot).budget - 1 } :=
    (lowerBudgets_session s slot).trans (if_neg hs)
  have htold := expireSessions_told (s := lowerBudgets s) hq (lowerBudgets_expired.mpr ⟨hs, hbudget⟩)
    (fun other hne h => by
      obtain ⟨hstate, hle⟩ := lowerBudgets_expired.mp h
      exact Nat.not_lt.mpr hle (hothers other hne hstate))
    (by rw [hsession]; exact hport) (by rw [hsession]; exact hgroup) (by rw [hsession]; exact hwaiter) hnotices hrequests
  refine ⟨_, rfl, ?_⟩
  obtain ⟨hlaw, hnoticed, hanswered⟩ := (htold.of_ports (tickTimer_frame _).2).endEvent
  rw [lowerBudgets_handle] at hnoticed
  exact ⟨hlaw, hnoticed, hanswered⟩

end

/-- Settles O5: the count of a tick where nothing runs out, the expiries as a chain of aborts, and the report of a single one. -/
theorem tickCountsAndExpires : Obligations.TickCountsAndExpires := by
  refine ⟨fun s hquiet hbudgets htimer => ?_, fun s hn => ?_, fun s hn => ?_, ?_⟩
  · have hnone : expireSessions (lowerBudgets s) = lowerBudgets s := expireSlots_of_none fun x _ hx => by
      obtain ⟨hstate, hle⟩ := lowerBudgets_expired.mp hx
      have := hbudgets x hstate
      omega
    have htick : tickTimer (lowerBudgets s) = { lowerBudgets s with timer := s.timer.map (· - 1) } :=
      tickTimer_of_running (s := lowerBudgets s) htimer
    refine ⟨{ lowerBudgets s with timer := s.timer.map (· - 1) }, ?_, fun slot => ?_, rfl⟩
    · simp only [exec, execTick, hnone, htick]
      exact congrArg Host.Outcome.next (endEvent_of_quiet (hquiet.congr rfl rfl))
    · refine (lowerBudgets_session s slot).trans ?_
      split <;> rfl
  · have hends := expireSlots_ends (List.finRange 8) (lowerBudgets s)
    obtain ⟨hsessions, hports⟩ := tickTimer_frame (expireSessions (lowerBudgets s))
    have hqueued : (tickTimer (expireSessions (lowerBudgets s))).NoneQueued := fun q => by
      rw [State.port, hports]
      exact hends.others.noneQueued hn q
    refine ⟨_, congrArg Host.Outcome.next (endEvent_of_noneQueued hqueued), fun slot hs hbudget => ?_⟩
    obtain ⟨hfree, hgeneration⟩ := expireSessions_frees (lowerBudgets_expired.mpr ⟨hs, hbudget⟩)
    rw [lowerBudgets_session, if_neg hs] at hgeneration
    refine startRelocation_stale ?_ ?_
    · rw [State.session, hsessions]
      exact hgeneration
    · rw [State.session, hsessions]
      exact hfree
  · have hends := expireSlots_ends (List.finRange 8) s
    refine ⟨_, congrArg Host.Outcome.next (endEvent_of_noneQueued (hends.others.noneQueued hn)), fun slot hs hbudget => ?_, ?_⟩
    · obtain ⟨hfree, hgeneration⟩ := expireSessions_frees ⟨hs, hbudget⟩
      exact startRelocation_stale hgeneration hfree
    · exact (hends.started.mono fun x ⟨first, hexpired, hx⟩ => ⟨first, hexpired.1, hexpired.2, hx⟩).others
  · intro c n p slot s hcommand hq hs hbudget hport hgroup hothers hwaiter hnotices hrequests
    have htold : ∃ t, exec c s = .next t ∧ s.ExpiryTold t p slot := by
      rcases hcommand with ⟨rfl, rfl⟩ | ⟨rfl, rfl⟩
      · exact exec_tick_told hq hs hbudget hothers hport hgroup hwaiter hnotices hrequests
      · refine ⟨_, rfl, (expireSessions_told hq ⟨hs, Nat.le_zero.mp hbudget⟩ (fun other hne h => ?_) hport hgroup hwaiter hnotices
          hrequests).endEvent⟩
        exact Nat.ne_of_gt (hothers other hne h.1) h.2
    obtain ⟨t, hexec, -, hnoticed, hanswered⟩ := htold
    refine ⟨t, hexec, fun hnaming => hnoticed ?_, fun r hserv hsession hop => hanswered r (serviceNaming_of hserv hsession hop)⟩
    cases hr : s.serviceNaming p slot with
    | none => rfl
    | some r =>
      obtain ⟨hserv, hsession, hop⟩ := serviceNaming_eq_some hr
      exact absurd (hnaming r hserv hsession) (by rw [hop]; nofun)

end Sys2Proof.Machine
end

-- ==== The notices of a group that ends ====
section
/-! PROOFS. The notices of a group's end, counted member by member: who is told what where there is room (R50, R119, R146). -/

namespace Sys2Proof.Machine

/-! ### The notices of a port and the members it owns -/

section
variable (s : State) (q : PortId)

/-- The bodies of a port's notices, oldest first. -/
def State.bodies : List NoticeBody := (s.port q).notices.map Notice.body

/-- The sessions of a list that a port owns. -/
def State.owned (l : List Slot) : List Slot := l.filter fun m => decide ((s.session m).port = some q)

theorem bodies_length : (s.bodies q).length = (s.port q).notices.length := List.length_map _

theorem owned_cons (m : Slot) (l : List Slot) : s.owned q (m :: l) = s.owned q [m] ++ s.owned q l :=
  List.filter_append [m] l

variable {s q}

theorem bodies_congr {t : State} (h : t.port q = s.port q) : t.bodies q = s.bodies q := by rw [State.bodies, h, State.bodies]

theorem owned_congr {t : State} {l : List Slot} (h : ∀ x ∈ l, t.session x = s.session x) : t.owned q l = s.owned q l :=
  List.filter_congr fun x hx => by rw [h x hx]

theorem owned_singleton_of_owner {m : Slot} (h : (s.session m).port = some q) : s.owned q [m] = [m] :=
  List.filter_cons_of_pos (decide_eq_true h)

theorem owned_singleton_of_not_owner {m : Slot} (h : (s.session m).port ≠ some q) : s.owned q [m] = [] :=
  List.filter_cons_of_neg (by simp [h])

theorem queueNotice_bodies_self (h : (s.bodies q).length < 8) (body : NoticeBody) :
    (queueNotice q body s).bodies q = s.bodies q ++ [body] := by
  rw [bodies_length] at h
  rw [State.bodies, queueNotice_of_room h, State.setPort_port_self, List.map_append]
  rfl

/-- A notice that finds room is the owner's newest, and reaches no other port. -/
theorem noticeToOwner_bodies {m : Slot} (hroom : (s.bodies q).length + (s.owned q [m]).length ≤ 8) (body : NoticeBody) :
    (noticeToOwner m body s).bodies q = s.bodies q ++ (s.owned q [m]).map fun _ => body := by
  unfold noticeToOwner
  by_cases howner : (s.session m).port = some q
  · rw [owned_singleton_of_owner howner] at hroom ⊢
    simp only [howner]
    exact queueNotice_bodies_self hroom body
  · rw [owned_singleton_of_not_owner howner]
    split
    · exact (List.append_nil _).symm
    · next p hp =>
      have hq : q ≠ p := fun h => howner (h ▸ hp)
      exact (bodies_congr (queueNotice_port_of_ne s hq body)).trans (List.append_nil _).symm

/-- Steps that each tell one session's owner tell the owners of a list of sessions one after another, where each step leaves the
sessions after it as they were. -/
theorem foldl_bodies {f : State → Slot → State} {body : Slot → SessionRec → NoticeBody} {Ready : State → Slot → Prop}
    (hready : ∀ s m x, Ready s m → Ready s x → x ≠ m → Ready (f s m) x)
    (hsession : ∀ s m x, Ready s m → x ≠ m → (f s m).session x = s.session x)
    (htells : ∀ s m, Ready s m → (s.bodies q).length + (s.owned q [m]).length ≤ 8 →
      (f s m).bodies q = s.bodies q ++ (s.owned q [m]).map fun x => body x (s.session x))
    {l : List Slot} (hn : l.Nodup) (h : ∀ x ∈ l, Ready s x)
    (hroom : (s.bodies q).length + (s.owned q l).length ≤ 8) :
    (l.foldl f s).bodies q = s.bodies q ++ (s.owned q l).map fun x => body x (s.session x) := by
  induction l generalizing s with
  | nil => exact (List.append_nil _).symm
  | cons m l ih =>
    obtain ⟨hm, hn⟩ := List.nodup_cons.mp hn
    have hne : ∀ x ∈ l, x ≠ m := fun x hx heq => hm (heq ▸ hx)
    have hself := h m (List.mem_cons_self ..)
    have hsame : ∀ x ∈ l, (f s m).session x = s.session x := fun x hx => hsession s m x hself (hne x hx)
    rw [owned_cons, List.length_append] at hroom
    have hfirst := htells s m hself (by omega)
    have hrest := ih (s := f s m) hn
      (fun x hx => hready s m x hself (h x (List.mem_cons_of_mem _ hx)) (hne x hx))
      (by rw [hfirst, owned_congr hsame, List.length_append, List.length_map]; omega)
    have hbodies : ((s.owned q l).map fun x => body x ((f s m).session x)) =
        (s.owned q l).map fun x => body x (s.session x) :=
      List.map_congr_left fun x hx => by rw [hsame x (List.mem_of_mem_filter hx)]
    rw [List.foldl_cons, hrest, hfirst, owned_congr hsame, hbodies, owned_cons s q m l, List.map_append, List.append_assoc]

end

/-! ### The members that a group's abort ends -/

section
variable {s : State} {q : PortId} {m x : Slot} {reason : AbortReason}

/-- The abort of a session brings no notices but its own: no port takes fault notices, no write waits for a page of the session,
and no request in service names it. -/
structure State.Undisturbed (s : State) (x : Slot) : Prop where
  notices : ∀ q : PortId, s.settings.faultNotices[q] = false
  waiter  : s.NoWaiter (s.session x).shadows
  naming  : ∀ q, s.serviceNaming q x = none

/-- The report of an abort changes ports alone. -/
theorem abortReport_frame (s : State) (m : Slot) (reason : AbortReason) :
    (abortReport m reason s).sessions = s.sessions ∧ (abortReport m reason s).waits = s.waits := by
  simp only [abortReport]
  split
  · exact ⟨rfl, rfl⟩
  · split
    · exact ⟨rfl, rfl⟩
    · simp
    · split <;> simp

/-- An undisturbed abort changes no other session, and ends no other wait. -/
theorem abortHold_leaves (h : s.NoWaiter (s.session m).shadows) (reason : AbortReason) :
    (∀ x, x ≠ m → (abortHold m reason s).session x = s.session x) ∧ (abortHold m reason s).waits.Sublist s.waits := by
  obtain ⟨hsession, hwaits⟩ := unheld_leaves h
  obtain ⟨hsessions', hwaits'⟩ := abortReport_frame (s.unheld m) m reason
  refine ⟨fun x hx => ?_, ?_⟩
  · rw [abortHold_unheld, State.session, hsessions']
    exact hsession x hx
  · rw [abortHold_unheld, hwaits']
    exact hwaits

/-- The abort of another session leaves a session undisturbed. -/
theorem State.Undisturbed.abortHold (h : s.Undisturbed x) (hm : s.Undisturbed m) (hx : x ≠ m)
    (hrequested : reason ≠ .requested) : (abortHold m reason s).Undisturbed x where
  notices := by
    rw [(abortHold_ends s m reason).others.settings]
    exact h.notices
  waiter w hw := by
    obtain ⟨hsession, hwaits⟩ := abortHold_leaves hm.waiter reason
    rw [hsession x hx]
    exact h.waiter w (hwaits.subset hw)
  naming q := ((abortHold_told (hm.naming q) hrequested).serviceNaming x).trans (h.naming q)

/-- An undisturbed abort tells the session's owner and no other port. -/
theorem abortHold_bodies (h : s.Undisturbed m) (hreset : reason ≠ .portReset) (hrequested : reason ≠ .requested)
    (hroom : (s.bodies q).length + (s.owned q [m]).length ≤ 8) :
    (abortHold m reason s).bodies q = s.bodies q ++ (s.owned q [m]).map fun x => .sessionAborted (s.handle x) reason := by
  have hport : (abortHold m reason s).port q = (noticeToOwner m (.sessionAborted (s.handle m) reason) s).port q := by
    unfold noticeToOwner
    split
    · next hnone =>
      have hservice : abortService m s = s := by simp only [abortService, hnone]
      have hreport : abortReport m reason (s.unheld m) = s.unheld m := by
        simp only [abortReport, (unheld_self s m).1, hnone]
      rw [abortHold_unheld, hreport, unheld_port h.waiter (h.notices q), hservice]
    · next p hp => exact abortHold_noticed h.waiter hp (h.naming p) (h.notices p) (h.notices q) hreset hrequested
  rw [bodies_congr hport, noticeToOwner_bodies hroom]
  exact congrArg _ (List.map_congr_left fun x hx => by
    rw [List.mem_singleton.mp (List.mem_of_mem_filter hx)])

theorem freeSession_session_of_ne (s : State) (hx : x ≠ m) : (freeSession m s).session x = s.session x :=
  State.setSession_session_of_ne _ _ hx

theorem abortMember_of_standing (h : (s.session m).state ≠ .free) :
    abortMember m s = freeSession m (abortHold m .group s) := if_neg h

/-- The members that are aborted one after another are told so, each by its own notice with reason GROUP. -/
theorem abortMembers_bodies {l : List Slot} (hn : l.Nodup) (h : ∀ x ∈ l, s.Undisturbed x ∧ (s.session x).state ≠ .free)
    (hroom : (s.bodies q).length + (s.owned q l).length ≤ 8) :
    (l.foldl (fun t m => abortMember m t) s).bodies q =
      s.bodies q ++ (s.owned q l).map fun x => .sessionAborted (s.handle x) .group := by
  refine foldl_bodies (body := fun x r => .sessionAborted (handleOf r.generation x) .group)
    (Ready := fun s x => s.Undisturbed x ∧ (s.session x).state ≠ .free) ?_ ?_ ?_ hn h hroom
  · rintro s m x ⟨hm, hs⟩ ⟨hx, hxs⟩ hne
    have hsession : (abortMember m s).session x = s.session x := by
      rw [abortMember_of_standing hs, freeSession_session_of_ne _ hne, (abortHold_leaves hm.waiter .group).1 x hne]
    obtain ⟨hnotices, hwaiter, hnaming⟩ := hx.abortHold (reason := .group) hm hne nofun
    rw [hsession, abortMember_of_standing hs]
    exact ⟨⟨hnotices, by rw [freeSession_session_of_ne _ hne]; exact hwaiter, hnaming⟩, hxs⟩
  · rintro s m x ⟨hm, hs⟩ hne
    rw [abortMember_of_standing hs, freeSession_session_of_ne _ hne, (abortHold_leaves hm.waiter .group).1 x hne]
  · rintro s m ⟨hm, hs⟩ hroom
    rw [abortMember_of_standing hs]
    exact abortHold_bodies (reason := .group) hm nofun nofun hroom

/-! ### The group that an abort ends -/

/-- The other members of a session's group, in join order. -/
theorem filter_ne_of_nodup {before after : List Slot} (hn : (before ++ m :: after).Nodup) :
    (before ++ m :: after).filter (· ≠ m) = before ++ after := by
  have hm := (List.nodup_cons.mp (List.perm_middle.nodup_iff.mp hn)).1
  have hkeep : ∀ l : List Slot, m ∉ l → l.filter (· ≠ m) = l := fun l hl =>
    List.filter_eq_self.mpr fun x hx => decide_eq_true fun heq => hl (heq ▸ hx)
  rw [List.filter_append, List.filter_cons_of_neg (by simp), hkeep before fun h => hm (List.mem_append_left _ h),
    hkeep after fun h => hm (List.mem_append_right _ h)]

theorem dissolve_bodies {g : GroupIx} {others : List Slot} (hothers : (s.group g).members.filter (· ≠ m) = others)
    (hn : others.Nodup) (h : ∀ x ∈ others, s.Undisturbed x ∧ (s.session x).state ≠ .free)
    (hroom : (s.bodies q).length + (s.owned q others).length ≤ 8) : (dissolve g m s).bodies q =
      s.bodies q ++ (s.owned q others).map fun x => .sessionAborted (s.handle x) .group := by
  rw [dissolve, hothers]
  exact abortMembers_bodies hn h hroom

theorem dissolve_handle (g : GroupIx) (s : State) : (dissolve g m s).handle x = s.handle x := by
  have hgeneration := ((abortMembers_ends s ((s.group g).members.filter (· ≠ m))).trans (disband_ends _ g)).generation x
  rw [State.handle, dissolve, hgeneration, State.handle]

/-- The port that closed a group is told of its abort last, and no other port is (R121). -/
theorem abortGroup_bodies {g : GroupIx} {closer : PortId} (hstate : (s.group g).state = .closing)
    (hcloser : (s.group g).closer = some closer)
    (hroom : ((dissolve g m s).bodies q).length + (if q = closer then 1 else 0) ≤ 8) :
    (abortGroup g m reason s).bodies q = (dissolve g m s).bodies q ++
      (if q = closer then [.groupResult g (.aborted (s.handle m) reason)] else []) := by
  have htold : abortGroup g m reason s =
      queueNotice closer (.groupResult g (.aborted (s.handle m) reason)) (dissolve g m s) := by
    rcases abortGroup_eq g m reason s with ⟨p, -, hp, heq⟩ | ⟨hnone, -⟩
    · rw [heq, dissolve_handle, Option.some.inj (hp.symm.trans hcloser)]
    · exact absurd hcloser (hnone closer hstate)
  rw [htold]
  by_cases hq : q = closer
  · rw [if_pos hq] at hroom ⊢
    rw [← hq]
    exact queueNotice_bodies_self hroom _
  · rw [if_neg hq, List.append_nil]
    exact bodies_congr (queueNotice_port_of_ne _ hq _)

/-- The abort of an undisturbed group tells the owner of the session that began it, then the owners of the others, then the
port that closed the group (R50, R51, R121). -/
theorem abortSession_bodies {g : GroupIx} {closer : PortId} {before after : List Slot}
    (hs : ∀ x ∈ (s.group g).members, (s.session x).state ≠ .free) (hg : (s.session m).group = some g)
    (hstate : (s.group g).state = .closing) (hcloser : (s.group g).closer = some closer)
    (hmembers : (s.group g).members = before ++ m :: after) (hn : (s.group g).members.Nodup)
    (h : ∀ x ∈ (s.group g).members, s.Undisturbed x) (hreset : reason ≠ .portReset) (hrequested : reason ≠ .requested)
    (hroom : (s.bodies q).length + (s.owned q (s.group g).members).length + (if q = closer then 1 else 0) ≤ 8) :
    (abortSession m reason s).bodies q = s.bodies q ++
      ((s.owned q [m]).map fun x => .sessionAborted (s.handle x) reason) ++
      ((s.owned q (before ++ after)).map fun x => .sessionAborted (s.handle x) .group) ++
      (if q = closer then [.groupResult g (.aborted (s.handle m) reason)] else []) := by
  have hperm : (s.group g).members.Perm (m :: (before ++ after)) := hmembers ▸ List.perm_middle
  have hnodup := List.nodup_cons.mp (hperm.nodup_iff.mp hn)
  have hm : m ∈ (s.group g).members := hperm.mem_iff.mpr (List.mem_cons_self ..)
  have hothers : ∀ x ∈ before ++ after, x ∈ (s.group g).members ∧ x ≠ m := fun x hx =>
    ⟨hperm.mem_iff.mpr (List.mem_cons_of_mem _ hx), fun heq => hnodup.1 (heq ▸ hx)⟩
  have hcount : (s.owned q (s.group g).members).length = (s.owned q [m]).length + (s.owned q (before ++ after)).length := by
    rw [← List.length_append, ← owned_cons]
    exact (hperm.filter _).length_eq
  obtain ⟨u, hu⟩ : ∃ u, u = abortHold m reason s := ⟨_, rfl⟩
  have hgroup : u.group g = s.group g := hu ▸ abortHold_group s m reason g
  have hsame : ∀ x ∈ before ++ after, u.session x = s.session x := fun x hx => by
    rw [hu]
    exact (abortHold_leaves (h m hm).waiter reason).1 x (hothers x hx).2
  have hhold : u.bodies q = s.bodies q ++ (s.owned q [m]).map fun x => .sessionAborted (s.handle x) reason :=
    hu ▸ abortHold_bodies (h m hm) hreset hrequested (by omega)
  have hrest := dissolve_bodies (s := u) (m := m) (q := q) (g := g)
    (by rw [hgroup, hmembers]; exact filter_ne_of_nodup (hmembers ▸ hn)) hnodup.2
    (fun x hx => ⟨hu ▸ (h x (hothers x hx).1).abortHold (h m hm) (hothers x hx).2 hrequested,
      hsame x hx ▸ hs x (hothers x hx).1⟩)
    (by rw [hhold, owned_congr hsame, List.length_append, List.length_map]; omega)
  have hhandles : ((s.owned q (before ++ after)).map fun x => NoticeBody.sessionAborted (u.handle x) .group) =
      (s.owned q (before ++ after)).map fun x => .sessionAborted (s.handle x) .group :=
    List.map_congr_left fun x hx => by rw [State.handle, hsame x (List.mem_of_mem_filter hx), State.handle]
  have hhandle : u.handle m = s.handle m := by
    rw [State.handle, hu, (abortHold_ends s m reason).generation m, State.handle]
  rw [owned_congr hsame, hhandles, hhold] at hrest
  rw [abortSession_grouped (hs m hm) hg, ← hu]
  refine (abortGroup_bodies (s := u) (closer := closer) (hgroup ▸ hstate) (hgroup ▸ hcloser) ?_).trans ?_
  · rw [hrest, List.length_append, List.length_append, List.length_map, List.length_map]
    omega
  · rw [hrest, hhandle]

end

/-! ### The members that an apply ends -/

section
variable {s t u : State} {q : PortId} {m x : Slot}

/-- No port's queues of requests and responses change, and no request is taken into service or leaves it. -/
def State.SameQueues (s t : State) : Prop := ∀ q, (t.port q).requests = (s.port q).requests ∧
  (t.port q).responses = (s.port q).responses ∧ (t.port q).inService.isNone = (s.port q).inService.isNone

theorem State.SameQueues.trans (h : s.SameQueues t) (h' : t.SameQueues u) : s.SameQueues u := fun q =>
  ⟨(h' q).1.trans (h q).1, (h' q).2.1.trans (h q).2.1, (h' q).2.2.trans (h q).2.2⟩

theorem sameQueues_of_told (h : ∀ q, (s.port q).Told (t.port q)) : s.SameQueues t := fun q =>
  ⟨(h q).requests, (h q).responses, by rw [(h q).inService]⟩

theorem State.SameQueues.queueLaw (h : s.SameQueues t) (hs : s.QueueLaw) : t.QueueLaw := fun q => by
  rw [PortRec.waiting, (h q).1, (h q).2.2]
  exact hs q

/-- The end of an applied session frees its slot, and the request in service that names it goes on, naming none (R16, R107). -/
theorem endApplied_eq_freeSession (s : State) (m : Slot) : ∃ t, endApplied m s = freeSession m t ∧ t.sessions = s.sessions ∧
    s.Calm t ∧ ∀ q, ∃ r : Option InService, t.port q = { s.port q with inService := r } ∧
      r.isNone = (s.port q).inService.isNone := by
  refine ⟨_, rfl, ?_⟩
  split
  · exact ⟨rfl, calm_refl s, fun q => ⟨_, rfl, rfl⟩⟩
  · split
    · exact ⟨rfl, calm_refl s, fun q => ⟨_, rfl, rfl⟩⟩
    · next p _ r hr =>
      obtain ⟨hserv, -, -⟩ := serviceNaming_eq_some hr
      refine ⟨by simp, setService_calm .., fun q => ?_⟩
      simp only [setService, hserv, State.setPort_port]
      split
      · next hq => exact ⟨_, by rw [hq], by rw [hq, hserv]; rfl⟩
      · exact ⟨_, rfl, rfl⟩

theorem endApplied_port (s : State) (m : Slot) (q : PortId) : ∃ r : Option InService,
    (endApplied m s).port q = { s.port q with inService := r } ∧ r.isNone = (s.port q).inService.isNone := by
  obtain ⟨t, heq, -, -, hport⟩ := endApplied_eq_freeSession s m
  rw [heq]
  exact hport q

theorem endApplied_ends (s : State) (m : Slot) : s.Ends (endApplied m s) (· = m) := by
  obtain ⟨t, heq, -, hcalm, -⟩ := endApplied_eq_freeSession s m
  rw [heq]
  exact hcalm.ends.trans (freeSession_ends t m)

theorem endApplied_free (s : State) (m : Slot) : ((endApplied m s).session m).state = .free := (freeSession_free _ m).1

theorem endApplied_session_of_ne (s : State) (hx : x ≠ m) : (endApplied m s).session x = s.session x := by
  obtain ⟨t, heq, hsessions, -⟩ := endApplied_eq_freeSession s m
  rw [heq, freeSession_session_of_ne t hx, State.session, hsessions, State.session]

theorem endApplied_handle (s : State) (m : Slot) : (endApplied m s).handle m = s.handle m := by
  rw [State.handle, (endApplied_ends s m).generation, State.handle]

/-- A member ends with the end of its session and the notice to its owner (R119). -/
theorem endMember_cases (s : State) (m : Slot) : ((s.session m).port = none ∧ endMember m s = endApplied m s) ∨
    ∃ p, (s.session m).port = some p ∧ endMember m s =
      queueNotice p (.groupApplied (s.handle m) (s.session m).shadows.length) (endApplied m s) := by
  unfold endMember
  cases hp : (s.session m).port with
  | none => exact .inl ⟨rfl, rfl⟩
  | some p => exact .inr ⟨p, rfl, by simp only [endApplied_handle]⟩

theorem endMember_calm (s : State) (m : Slot) : (endApplied m s).Calm (endMember m s) := by
  rcases endMember_cases s m with ⟨-, h⟩ | ⟨p, -, h⟩
  · exact h ▸ calm_refl _
  · exact h ▸ queueNotice_calm ..

theorem endMember_session (s : State) (m x : Slot) : (endMember m s).session x = (endApplied m s).session x := by
  rcases endMember_cases s m with ⟨-, h⟩ | ⟨p, -, h⟩
  · rw [h]
  · rw [h]
    simp [State.session]

theorem endMember_ends (s : State) (m : Slot) : s.Ends (endMember m s) (· = m) :=
  (endApplied_ends s m).trans (endMember_calm s m).ends

theorem endMember_sameQueues (s : State) (m : Slot) : s.SameQueues (endMember m s) := by
  have hend : s.SameQueues (endApplied m s) := fun q => by
    obtain ⟨r, hport, hnone⟩ := endApplied_port s m q
    rw [hport]
    exact ⟨rfl, rfl, hnone⟩
  refine hend.trans ?_
  rcases endMember_cases s m with ⟨-, h⟩ | ⟨p, -, h⟩
  · exact h ▸ sameQueues_of_told fun q => .refl _
  · exact h ▸ sameQueues_of_told fun q => (queueNotice_background ..).ports q

/-- The members of an applied group end one after another. -/
def endMembers (l : List Slot) (s : State) : State := l.foldl (fun t m => endMember m t) s

theorem endMembers_ends (l : List Slot) (s : State) : s.Ends (endMembers l s) (· ∈ l) := by
  induction l generalizing s with
  | nil => exact (calm_refl s).ends
  | cons m l ih =>
    exact ((endMember_ends s m).mono fun x hx => hx ▸ List.mem_cons_self ..).trans
      ((ih (endMember m s)).mono fun x hx => List.mem_cons_of_mem _ hx)

theorem endMembers_free {l : List Slot} (s : State) (hx : x ∈ l) : ((endMembers l s).session x).state = .free := by
  induction l generalizing s with
  | nil => cases hx
  | cons m l ih =>
    rcases List.mem_cons.mp hx with rfl | hx
    · refine (endMembers_ends l (endMember x s)).free ?_
      rw [endMember_session]
      exact endApplied_free s x
    · exact ih (endMember m s) hx

theorem endMembers_sameQueues (l : List Slot) (s : State) : s.SameQueues (endMembers l s) := by
  induction l generalizing s with
  | nil => exact fun q => ⟨rfl, rfl, rfl⟩
  | cons m l ih => exact (endMember_sameQueues s m).trans (ih (endMember m s))

/-- Each member's end tells its owner how many of its pages were applied (R119). -/
theorem endMembers_bodies {l : List Slot} (hn : l.Nodup) (hroom : (s.bodies q).length + (s.owned q l).length ≤ 8) :
    (endMembers l s).bodies q =
      s.bodies q ++ (s.owned q l).map fun x => .groupApplied (s.handle x) (s.session x).shadows.length := by
  refine foldl_bodies (body := fun x r => .groupApplied (handleOf r.generation x) r.shadows.length) (Ready := fun _ _ => True)
    (fun _ _ _ _ _ _ => trivial) (fun s m x _ hx => ?_) (fun s m _ hroom => ?_) hn (fun _ _ => trivial) hroom
  · rw [endMember_session, endApplied_session_of_ne s hx]
  · obtain ⟨r, hport, -⟩ := endApplied_port s m q
    have hbodies : (endApplied m s).bodies q = s.bodies q := by rw [State.bodies, hport, State.bodies]
    rcases endMember_cases s m with ⟨hp, h⟩ | ⟨p, hp, h⟩
    · rw [h, owned_singleton_of_not_owner (by rw [hp]; nofun), hbodies]
      exact (List.append_nil _).symm
    · by_cases hq : q = p
      · rw [owned_singleton_of_owner (hq ▸ hp)] at hroom ⊢
        rw [h, ← hq, queueNotice_bodies_self (by rw [hbodies]; exact hroom), hbodies]
        rfl
      · rw [h, bodies_congr (queueNotice_port_of_ne _ hq _), hbodies,
          owned_singleton_of_not_owner fun ho => hq (Option.some.inj (ho.symm.trans hp))]
        exact (List.append_nil _).symm

end

end Sys2Proof.Machine
end

-- ==== COMMIT of a member ====
section
/-! PROOFS. COMMIT of a member: the session becomes READY, and with the last member of a CLOSING group the group is resolved
(R99, R113, R117 to R121). -/

namespace Sys2Proof.Machine

/-! ### The apply of several sessions -/

section
variable {s : State} {members : List Slot}

/-- Each page of an applied session maps its shadow frame, NORMAL, at the stepped version. -/
theorem applyPages_page_of_member (hn : ((members.flatMap fun m => (s.session m).shadows).map ShadowEntry.page).Nodup)
    {m : Slot} (hm : m ∈ members) {e : ShadowEntry} (he : e ∈ (s.session m).shadows) :
    ((applyPages members s).entry e.page).frame = e.frame ∧
      ((applyPages members s).entry e.page).condition = .normal ∧
      ((applyPages members s).entry e.page).version = nextVersion (s.entry e.page).version := by
  obtain ⟨hf, hv, hc⟩ := (offersApplied_leave (members.flatMap fun m => (s.session m).shadows.map fun e => (s.handle m, e))
    ((members.flatMap fun m => (s.session m).shadows).foldl (fun t e => switchEntry e t) s)).1 e.page
  rw [switchEntries_entry s hn (List.mem_flatMap.mpr ⟨m, hm, he⟩)] at hf hv hc
  rw [applyPages_eq]
  exact ⟨hf, hc, hv⟩

theorem applyPages_page_of_no_member {page : LP} (h : ∀ m ∈ members, ∀ e ∈ (s.session m).shadows, e.page ≠ page) :
    ((applyPages members s).entry page).frame = (s.entry page).frame ∧
      ((applyPages members s).entry page).version = (s.entry page).version ∧
      ((applyPages members s).entry page).condition = (s.entry page).condition := by
  have hoffers := (offersApplied_leave (members.flatMap fun m => (s.session m).shadows.map fun e => (s.handle m, e))
    ((members.flatMap fun m => (s.session m).shadows).foldl (fun t e => switchEntry e t) s)).1 page
  rw [switchEntries_entry_of_ne s fun e he => by
    obtain ⟨m, hm, he⟩ := List.mem_flatMap.mp he
    exact h m hm e he] at hoffers
  rwa [applyPages_eq]

theorem notifyWatchers_of_unwatched {page : LP} (h : ∀ q, page ∉ (s.port q).watches) (handle : Handle) :
    notifyWatchers page handle s = s := by
  have hfold : ∀ l : List PortId, l.foldl (fun t p => if (t.port p).watches.contains page then
      queueNotice p (.watchChanged page (t.entry page).version handle) t else t) s = s := fun l => by
    induction l with
    | nil => rfl
    | cons p l ih =>
      rw [List.foldl_cons, if_neg (by simpa using h p)]
      exact ih
  exact hfold _

/-- Offers of pages that no write waits for and no port watches change nothing. -/
theorem offersApplied_of_unwatched {work : List (Handle × ShadowEntry)}
    (h : ∀ w ∈ work, (∀ x ∈ s.waits, x.page ≠ w.2.page) ∧ ∀ q, w.2.page ∉ (s.port q).watches) :
    work.foldl (fun t w => offerApplied w.1 w.2 t) s = s := by
  induction work with
  | nil => rfl
  | cons w work ih =>
    obtain ⟨hwaiter, hwatch⟩ := h w (List.mem_cons_self ..)
    rw [List.foldl_cons, offerApplied, offerClaim_of_no_waiter hwaiter, notifyWatchers_of_unwatched hwatch]
    exact ih fun x hx => h x (List.mem_cons_of_mem _ hx)

/-- Where no write waits for an applied page, no port watches one and none takes fault notices, an apply leaves the sessions and
the ports as they were. -/
theorem applyPages_undisturbed (hnotices : ∀ q : PortId, s.settings.faultNotices[q] = false)
    (hwaiter : ∀ m ∈ members, s.NoWaiter (s.session m).shadows)
    (hwatch : ∀ q, ∀ m ∈ members, ∀ e ∈ (s.session m).shadows, e.page ∉ (s.port q).watches) :
    (applyPages members s).sessions = s.sessions ∧ ∀ q, (applyPages members s).port q = s.port q := by
  obtain ⟨u, hu⟩ : ∃ u, u = (members.flatMap fun m => (s.session m).shadows).foldl (fun t e => switchEntry e t) s := ⟨_, rfl⟩
  obtain ⟨hsessions, hwaits, -⟩ := switchEntries_books s (members.flatMap fun m => (s.session m).shadows)
  rw [← hu] at hsessions hwaits
  have hport : ∀ q, u.port q = s.port q := fun q => hu ▸ switchEntries_port s (hnotices q) _
  have hoffers := offersApplied_of_unwatched (s := u)
    (work := members.flatMap fun m => (s.session m).shadows.map fun e => (s.handle m, e)) fun w hw => by
      obtain ⟨m, hm, hw⟩ := List.mem_flatMap.mp hw
      obtain ⟨e, he, rfl⟩ := List.mem_map.mp hw
      rw [hwaits]
      exact ⟨fun x hx => hwaiter m hm x hx e he, fun q => hport q ▸ hwatch q m hm e he⟩
  rw [applyPages_eq, ← hu, hoffers]
  exact ⟨hsessions, hport⟩

end

/-! ### The resolution of a group without a CLOSE in service -/

section
variable {s t u : State} {g : GroupIx} {closer : PortId}

/-- A group whose members have all ended, IDLE and empty. -/
def groupEnded (g : GroupIx) (members : List Slot) (s : State) : State := (endMembers members s).setGroup g GroupRec.reset

theorem groupGuardFailure_none {members : List Slot}
    (h : ∀ m ∈ members, ∀ e ∈ (s.session m).guards, (s.entry e.page).version = e.version) :
    groupGuardFailure s members = none :=
  List.findSome?_eq_none_iff.mpr fun m hm => by rw [guardFailure_none (h m hm), Option.map_none]

/-- Where every guard holds the group is applied, and its closer port told (R118, R119, R121). -/
theorem resolveGroup_applies
    (h : ∀ m ∈ (s.group g).members, ∀ e ∈ (s.session m).guards, (s.entry e.page).version = e.version)
    (hcloser : (s.group g).closer = some closer) :
    resolveGroup g none s = queueNotice closer (.groupResult g (.applied (s.group g).members.length
      ((s.group g).members.map fun m => (s.session m).shadows.length).sum))
        (groupEnded g (s.group g).members (applyPages (s.group g).members s)) := by
  simp only [resolveGroup, groupGuardFailure_none h, hcloser]
  rfl

/-- Where a guard fails the group is aborted by the member it fails at (R116, R120). -/
theorem resolveGroup_aborts {m : Slot} {page : LP} (h : groupGuardFailure s (s.group g).members = some (m, page)) :
    resolveGroup g none s = abortSession m (.guard page) s := by
  simp only [resolveGroup, h]

theorem groupEnded_endsGroup (s : State) (g : GroupIx) : s.GroupEnded (groupEnded g (s.group g).members s) g where
  ends := (endMembers_ends _ s).trans (disband_ends _ g)
  free _ hm := endMembers_free s hm
  group := State.setGroup_group_self ..

theorem groupEnded_sameQueues (members : List Slot) (s : State) : s.SameQueues (groupEnded g members s) :=
  endMembers_sameQueues members s

/-- The notices of an applied group: one for each member to its owner, then the outcome to the closer port (R119, R121). -/
theorem groupEnded_bodies {q : PortId} {members : List Slot} {outcome : NoticeBody} (hn : members.Nodup)
    (hroom : (s.bodies q).length + (s.owned q members).length + (if q = closer then 1 else 0) ≤ 8) :
    (queueNotice closer outcome (groupEnded g members s)).bodies q = s.bodies q ++
      ((s.owned q members).map fun x => .groupApplied (s.handle x) (s.session x).shadows.length) ++
      (if q = closer then [outcome] else []) := by
  have hended : (groupEnded g members s).bodies q = _ := endMembers_bodies (s := s) hn (by omega)
  by_cases hq : q = closer
  · rw [if_pos hq] at hroom ⊢
    rw [← hq, ← hended]
    refine queueNotice_bodies_self ?_ _
    rw [hended, List.length_append, List.length_map]
    omega
  · rw [if_neg hq, List.append_nil, ← hended]
    exact bodies_congr (queueNotice_port_of_ne _ hq _)

/-- An undisturbed apply gives no notice of its own before the members end. -/
theorem applied_bodies {q : PortId} {members : List Slot} {outcome : NoticeBody}
    (hnotices : ∀ q : PortId, s.settings.faultNotices[q] = false)
    (hwaiter : ∀ m ∈ members, s.NoWaiter (s.session m).shadows)
    (hwatch : ∀ q, ∀ m ∈ members, ∀ e ∈ (s.session m).shadows, e.page ∉ (s.port q).watches) (hn : members.Nodup)
    (hroom : (s.bodies q).length + (s.owned q members).length + (if q = closer then 1 else 0) ≤ 8) :
    (queueNotice closer outcome (groupEnded g members (applyPages members s))).bodies q = s.bodies q ++
      ((s.owned q members).map fun x => .groupApplied (s.handle x) (s.session x).shadows.length) ++
      (if q = closer then [outcome] else []) := by
  obtain ⟨hsessions, hport⟩ := applyPages_undisturbed hnotices hwaiter hwatch
  have hsession : ∀ x, (applyPages members s).session x = s.session x := fun x => by
    rw [State.session, hsessions, State.session]
  have hbodies := bodies_congr (hport q)
  have howned : (applyPages members s).owned q members = s.owned q members := owned_congr fun x _ => hsession x
  have hended := groupEnded_bodies (s := applyPages members s) (g := g) (closer := closer) (q := q) (outcome := outcome) hn
    (by rw [hbodies, howned]; exact hroom)
  have htold : (fun x => NoticeBody.groupApplied ((applyPages members s).handle x)
      ((applyPages members s).session x).shadows.length) =
        fun x => .groupApplied (s.handle x) (s.session x).shadows.length := funext fun x => by
    rw [State.handle, hsession, State.handle]
  rwa [hbodies, howned, htold] at hended

end

/-! ### The member that becomes READY -/

section
variable {s t v : State} {p : PortId} {slot : Slot} {g : GroupIx} {r : Request} {tag : Byte} {handle : Handle}

/-- The state in which a member is READY and its COMMIT answered, before its group is looked at (R99). -/
def State.memberReady (s : State) (p : PortId) (r : Request) (slot : Slot) : State :=
  (s.setSession slot { s.session slot with state := .ready }).answered p r .ready

theorem memberReady_session (s : State) (p : PortId) (r : Request) (slot x : Slot) :
    (s.memberReady p r slot).session x = if x = slot then { s.session slot with state := .ready } else s.session x := by
  refine Eq.trans ?_ (State.setSession_session s slot x _)
  exact State.setPort_session ..

/-- A member that becomes READY keeps all else of its record. -/
theorem memberReady_record (s : State) (p : PortId) (r : Request) (slot x : Slot) : (s.memberReady p r slot).session x =
    { s.session x with state := ((s.memberReady p r slot).session x).state } := by
  rw [memberReady_session]
  split
  · next hx => rw [hx]
  · rfl

theorem memberReady_port (s : State) (p : PortId) (r : Request) (slot : Slot) (q : PortId) :
    ((s.memberReady p r slot).port q).requests = (s.port q).requests ∧
      ((s.memberReady p r slot).port q).notices = (s.port q).notices ∧
      ((s.memberReady p r slot).port q).watches = (s.port q).watches ∧
      (q ≠ p → (s.memberReady p r slot).port q = s.port q) := by
  rw [State.memberReady, State.answered, State.setPort_port]
  split
  · next hq => exact hq ▸ ⟨rfl, rfl, rfl, fun h => absurd rfl h⟩
  · exact ⟨rfl, rfl, rfl, fun _ => rfl⟩

theorem memberReady_port_self (s : State) (p : PortId) (r : Request) (slot : Slot) :
    ((s.memberReady p r slot).port p).responses = (s.port p).responses ++ [⟨r.tag, .ready⟩] ∧
      ((s.memberReady p r slot).port p).inService = none := by
  rw [State.memberReady, State.answered, State.setPort_port_self]
  exact ⟨rfl, rfl⟩

theorem memberReady_bodies (s : State) (p : PortId) (r : Request) (slot : Slot) (q : PortId) :
    (s.memberReady p r slot).bodies q = s.bodies q := by
  rw [State.bodies, (memberReady_port ..).2.1, State.bodies]

theorem memberReady_handle (s : State) (p : PortId) (r : Request) (slot x : Slot) :
    (s.memberReady p r slot).handle x = s.handle x := by
  rw [State.handle, memberReady_record, State.handle]

theorem memberReady_owned (s : State) (p : PortId) (r : Request) (slot : Slot) (q : PortId) (l : List Slot) :
    (s.memberReady p r slot).owned q l = s.owned q l :=
  List.filter_congr fun x _ => by rw [memberReady_record]

/-- A request in service that named a session still does, but for the COMMIT that was answered. -/
theorem memberReady_naming {x : Slot} (h : ∀ q r, (s.port q).inService = some r → r.session ≠ some x) (q : PortId) :
    (s.memberReady p r slot).serviceNaming q x = none := by
  by_cases hq : q = p
  · rw [hq, State.serviceNaming, (memberReady_port_self s p r slot).2]
    rfl
  · rw [State.serviceNaming, (memberReady_port s p r slot q).2.2.2 hq, Option.filter_eq_none_iff]
    intro r' hr'
    simp [h q r' hr']

theorem memberReady_keepsOthers {ended : Slot → Prop} (h : ended slot) :
    s.KeepsOthers (s.memberReady p r slot) ended (fun _ => False) :=
  { (State.Background.refl s).keepsOthers (ended := ended) (cleared := fun _ => False) with
    sessions := fun x hx => by
      have hne : x ≠ slot := by
        rintro rfl
        exact hx h
      rw [memberReady_session, if_neg hne]
      exact ⟨rfl, rfl, rfl, rfl, rfl, rfl⟩
    ports := fun q _ => by
      rw [State.memberReady, State.answered, State.setPort_port]
      split
      · next hq => exact hq ▸ ⟨rfl, rfl, rfl, rfl, rfl⟩
      · exact ⟨rfl, rfl, rfl, rfl, rfl⟩ }

theorem memberReady_queueLaw (hp : s.PortFree p) (r : Request) (slot : Slot) : (s.memberReady p r slot).QueueLaw :=
  answered_queueLaw (hp.of_ports rfl) r .ready

/-- The service of a COMMIT of a member: the member is READY, and a CLOSING group with no other to wait for is resolved. -/
theorem serveCommit_member (howns : s.Owns p handle slot) (hopen : (s.session slot).state = .opened)
    (hidle : (s.session slot).activity = .idle) (hg : (s.session slot).group = some g) (r : Request) :
    serveCommit p handle (s.serving p r none .atOnce) =
      if ((s.memberReady p r slot).group g).state = .closing ∧ (s.memberReady p r slot).allReady g = true then
        startRelocation (resolveGroup g none (s.memberReady p r slot))
      else s.memberReady p r slot := by
  have hcheck : checkHandle p handle true (s.serving p r none .atOnce) = .ok slot :=
    checkHandle_of_owns (s := s.serving p r none .atOnce) howns fun _ => hopen
  have hready : respond p .ready (modifySession slot (fun x => { x with state := .ready }) (s.serving p r none .atOnce)) =
      s.memberReady p r slot := respond_modifySession_serving ..
  simp only [serveCommit, hcheck, State.serving_session, hidle, hg, hready, ne_eq, not_true_eq_false, if_false]

theorem memberReady_allReady (h : ∀ m ∈ (s.group g).members, m ≠ slot → (s.session m).state = .ready) :
    (s.memberReady p r slot).allReady g = true := by
  refine List.all_eq_true.mpr fun m hm => decide_eq_true ?_
  rw [memberReady_session]
  split
  · rfl
  · next hne => exact h m hm hne

theorem memberReady_not_allReady {m : Slot} (hm : m ∈ (s.group g).members) (hne : m ≠ slot)
    (hs : (s.session m).state ≠ .ready) : (s.memberReady p r slot).allReady g = false := by
  refine List.all_eq_false.mpr ⟨m, hm, ?_⟩
  rw [memberReady_session, if_neg hne]
  simpa using hs

/-! ### The event of the COMMIT that makes the last member READY -/

/-- What is said of the members, the group and the COMMIT after a resolution, whatever its outcome. -/
structure State.Resolved (s t : State) (p : PortId) (tag : Byte) (g : GroupIx) : Prop where
  members  : ∀ m ∈ (s.group g).members, (t.session m).state = .free ∧ (t.session m).generation = (s.session m).generation
  group    : t.group g = { state := .idle, members := [], closer := none }
  response : (t.port p).responses = (s.port p).responses ++ [⟨tag, .ready⟩]
  service  : (t.port p).inService = none
  others   : s.KeepsOthers t (· ∈ (s.group g).members) (fun _ => False)

/-- A COMMIT that makes the last member of a CLOSING group READY may be sent. -/
structure State.LastMember (s : State) (p : PortId) (handle : Handle) (slot : Slot) (g : GroupIx) (closer : PortId) : Prop where
  port    : s.PortFree p
  owns    : s.Owns p handle slot
  opened  : (s.session slot).state = .opened
  idle    : (s.session slot).activity = .idle
  group   : (s.session slot).group = some g
  closing : (s.group g).state = .closing
  closer  : (s.group g).closer = some closer
  member  : slot ∈ (s.group g).members
  ready   : ∀ m ∈ (s.group g).members, m ≠ slot → (s.session m).state = .ready

/-- The event of the COMMIT ends with the resolution, which takes effect on a state `t` that has ended nothing yet. -/
theorem exec_commit_resolves {closer : PortId} (h : s.LastMember p handle slot g closer)
    (hback : (s.memberReady p ⟨tag, .commit handle⟩ slot).Background t)
    (hended : t.GroupEnded v g) (hqueues : t.SameQueues v)
    (hresolve : resolveGroup g none (s.memberReady p ⟨tag, .commit handle⟩ slot) = v) :
    exec (.commit p tag handle) s = .next (startRelocation v) ∧ s.Resolved (startRelocation v) p tag g := by
  have hports := (sameQueues_of_told hback.ports).trans hqueues
  have hlaw : (startRelocation v).QueueLaw := fun q => by
    rw [startRelocation_port]
    exact hports.queueLaw (memberReady_queueLaw h.port _ slot) q
  have hserve : serve p (.commit handle) (s.serving p ⟨tag, .commit handle⟩ none .atOnce) = startRelocation v := by
    refine (serveCommit_member h.owns h.opened h.idle h.group _).trans ?_
    rw [if_pos ⟨h.closing, memberReady_allReady h.ready⟩, hresolve]
  have hgroup : (t.group g).members = (s.group g).members := by
    simp only [State.group, hback.groups]
    rfl
  obtain ⟨hends, hfree, hidled⟩ := hended.calm (startRelocation_calm v)
  rw [hgroup] at hends hfree
  obtain ⟨hresponses, hservice⟩ := memberReady_port_self s p ⟨tag, .commit handle⟩ slot
  obtain ⟨-, hresponses', hservice'⟩ := hports p
  refine ⟨congrArg Host.Outcome.next ?_, fun m hm => ⟨hfree m hm, ?_⟩, hidled, ?_, ?_,
    (memberReady_keepsOthers h.member).trans (hback.keepsOthers.trans hends.others)⟩
  · rw [sendRequest_of_free h.port rfl, hserve, settleUpTo_of_queueLaw hlaw]
  · obtain ⟨-, hgeneration, -⟩ := (hback.keepsOthers (ended := fun _ => False) (cleared := fun _ => False)).sessions m id
    rw [hends.generation m, hgeneration, memberReady_record]
  · rw [startRelocation_port, hresponses', hresponses]
  · rw [startRelocation_port]
    rw [hservice] at hservice'
    exact Option.isNone_iff_eq_none.mp hservice'

/-! ### Its two outcomes -/

/-- The room a port has for the notices of its members and, at the closer port, for the group's result. -/
def State.RoomFor (s : State) (g : GroupIx) (closer q : PortId) : Prop :=
  (s.port q).notices.length + (s.owned q (s.group g).members).length + (if q = closer then 1 else 0) ≤ 8

theorem memberReady_room {closer q : PortId} (h : s.RoomFor g closer q) :
    ((s.memberReady p r slot).bodies q).length + ((s.memberReady p r slot).owned q (s.group g).members).length +
      (if q = closer then 1 else 0) ≤ 8 := by
  rw [memberReady_bodies, bodies_length, memberReady_owned]
  exact h

/-- Nothing but the members' own ends gives a notice: no member stands twice in the group, no write waits for a page of a
member, no port takes fault notices. -/
structure State.MembersUndisturbed (s : State) (members : List Slot) : Prop where
  nodup   : members.Nodup
  waiter  : ∀ w ∈ s.waits, ∀ m ∈ members, ∀ e ∈ (s.session m).shadows, w.page ≠ e.page
  notices : ∀ q : PortId, s.settings.faultNotices[q] = false

theorem State.MembersUndisturbed.noWaiter {members : List Slot} (h : s.MembersUndisturbed members) {m : Slot}
    (hm : m ∈ members) : (s.memberReady p r slot).NoWaiter ((s.memberReady p r slot).session m).shadows := by
  rw [memberReady_record]
  exact fun w hw => h.waiter w hw m hm

/-- The COMMIT applies the group where every guard holds. -/
theorem exec_commit_appliesGroup {closer : PortId} (h : s.LastMember p handle slot g closer)
    (hguards : ∀ m ∈ (s.group g).members, ∀ e ∈ (s.session m).guards, (s.entry e.page).version = e.version)
    (hn : (((s.group g).members.flatMap fun m => (s.session m).shadows).map ShadowEntry.page).Nodup) :
    ∃ t, exec (.commit p tag handle) s = .next t ∧ s.Resolved t p tag g ∧
      (∀ m ∈ (s.group g).members, ∀ e ∈ (s.session m).shadows,
        (t.entry e.page).frame = e.frame ∧ (t.entry e.page).condition = .normal ∧
        (t.entry e.page).version = nextVersion (s.entry e.page).version) ∧
      (∀ page, (∀ m ∈ (s.group g).members, ∀ e ∈ (s.session m).shadows, e.page ≠ page) →
        (t.entry page).frame = (s.entry page).frame ∧ (t.entry page).version = (s.entry page).version ∧
        (t.entry page).condition = (s.entry page).condition) ∧
      (s.MembersUndisturbed (s.group g).members →
        (∀ q, ∀ m ∈ (s.group g).members, ∀ e ∈ (s.session m).shadows, e.page ∉ (s.port q).watches) →
        ∀ q, s.RoomFor g closer q → t.bodies q = s.bodies q ++
          ((s.owned q (s.group g).members).map fun m => .groupApplied (s.handle m) (s.session m).shadows.length) ++
          (if q = closer then
            [.groupResult g (.applied (s.group g).members.length
              ((s.group g).members.map fun m => (s.session m).shadows.length).sum)]
           else [])) := by
  obtain ⟨u, hu⟩ : ∃ u, u = s.memberReady p ⟨tag, .commit handle⟩ slot := ⟨_, rfl⟩
  have hrecord : ∀ x, (u.session x).shadows = (s.session x).shadows ∧ (u.session x).guards = (s.session x).guards := fun x => by
    rw [hu, memberReady_record]
    exact ⟨rfl, rfl⟩
  have hgroup : u.group g = s.group g := hu ▸ rfl
  have hentry : ∀ page, u.entry page = s.entry page := fun page => hu ▸ rfl
  have hshadows : (fun m => (u.session m).shadows) = fun m => (s.session m).shadows := funext fun m => (hrecord m).1
  obtain ⟨outcome, houtcome⟩ : ∃ outcome, outcome = NoticeBody.groupResult g (.applied (s.group g).members.length
    ((s.group g).members.map fun m => (s.session m).shadows.length).sum) := ⟨_, rfl⟩
  obtain ⟨t, ht⟩ : ∃ t, t = applyPages (s.group g).members u := ⟨_, rfl⟩
  have hback : u.Background t := ht ▸ applyPages_background ..
  have hresolve := resolveGroup_applies (s := u) (g := g) (closer := closer)
    (fun m hm e he => by
      rw [hgroup] at hm
      rw [(hrecord m).2] at he
      rw [hentry]
      exact hguards m hm e he)
    (hgroup ▸ h.closer)
  simp only [hgroup, (hrecord _).1, ← ht] at hresolve
  rw [← houtcome] at hresolve
  have hmembers : (t.group g).members = (s.group g).members := by
    rw [← hgroup]
    simp only [State.group, hback.groups]
  have hended : t.GroupEnded (groupEnded g (s.group g).members t) g := hmembers ▸ groupEnded_endsGroup t g
  have hqueues := (groupEnded_sameQueues (g := g) (s.group g).members t).trans
    (sameQueues_of_told fun q => (queueNotice_background _ closer outcome).ports q)
  obtain ⟨hexec, hresolved⟩ := exec_commit_resolves (tag := tag) h (hu ▸ hback) (hended.calm (queueNotice_calm ..)) hqueues
    (hu ▸ hresolve)
  have hpages := ((hended.calm (queueNotice_calm _ closer outcome)).calm (startRelocation_calm _)).ends.pages
  refine ⟨_, hexec, hresolved, fun m hm e he => ?_, fun page hpage => ?_, fun hundisturbed hwatch q hroom => ?_⟩
  · obtain ⟨hf, hv, hc⟩ := hpages e.page
    obtain ⟨haf, hac, hav⟩ := applyPages_page_of_member (s := u) (members := (s.group g).members) (hshadows ▸ hn) hm
      ((hrecord m).1 ▸ he)
    rw [← ht, hentry] at hav
    rw [← ht] at haf hac
    exact ⟨hf.trans haf, hc.trans hac, hv.trans hav⟩
  · obtain ⟨hf, hv, hc⟩ := hpages page
    obtain ⟨haf, hav, hac⟩ := applyPages_page_of_no_member (s := u) (members := (s.group g).members) (page := page)
      (by simpa only [hrecord] using hpage)
    rw [← ht, hentry] at haf hav hac
    exact ⟨hf.trans haf, hv.trans hav, hc.trans hac⟩
  · have hbodies := applied_bodies (s := u) (g := g) (closer := closer) (q := q) (outcome := outcome)
      (hu ▸ hundisturbed.notices) (fun m hm => hu ▸ hundisturbed.noWaiter hm)
      (fun q m hm e he => by
        rw [(hrecord m).1] at he
        rw [hu, (memberReady_port ..).2.2.1]
        exact hwatch q m hm e he)
      hundisturbed.nodup (by rw [hu]; exact memberReady_room hroom)
    rw [bodies_congr (startRelocation_port ..), ht, hbodies, ← houtcome]
    simp only [hrecord]
    simp only [hu, memberReady_bodies, memberReady_owned, memberReady_handle]

/-- The COMMIT aborts the group by the first member at which a guard fails. -/
theorem exec_commit_abortsGroup {closer : PortId} {before after : List Slot} {m : Slot} {pre post : List GuardEntry}
    {e : GuardEntry} (h : s.LastMember p handle slot g closer) (hmembers : (s.group g).members = before ++ m :: after)
    (hstand : ∀ x ∈ (s.group g).members, (s.session x).group = some g ∧ (s.session x).state ≠ .free)
    (hbefore : ∀ b ∈ before, ∀ x ∈ (s.session b).guards, (s.entry x.page).version = x.version)
    (hguards : (s.session m).guards = pre ++ e :: post) (hpre : ∀ x ∈ pre, (s.entry x.page).version = x.version)
    (he : (s.entry e.page).version ≠ e.version)
    (hnaming : ∀ q r, (s.port q).inService = some r → ∀ x ∈ (s.group g).members, r.session ≠ some x) :
    ∃ t, exec (.commit p tag handle) s = .next t ∧ s.Resolved t p tag g ∧ s.SamePages t ∧
      (s.MembersUndisturbed (s.group g).members → ∀ q, s.RoomFor g closer q → t.bodies q = s.bodies q ++
        ((s.owned q [m]).map fun x => .sessionAborted (s.handle x) (.guard e.page)) ++
        ((s.owned q (before ++ after)).map fun x => .sessionAborted (s.handle x) .group) ++
        (if q = closer then [.groupResult g (.aborted (s.handle m) (.guard e.page))] else [])) := by
  obtain ⟨u, hu⟩ : ∃ u, u = s.memberReady p ⟨tag, .commit handle⟩ slot := ⟨_, rfl⟩
  have hrecord : ∀ x, (u.session x).group = (s.session x).group ∧ (u.session x).guards = (s.session x).guards := fun x => by
    rw [hu, memberReady_record]
    exact ⟨rfl, rfl⟩
  have hgroup : u.group g = s.group g := hu ▸ rfl
  have hentry : ∀ page, u.entry page = s.entry page := fun page => hu ▸ rfl
  have hm : m ∈ (u.group g).members := by simp [hgroup, hmembers]
  have hug : (u.session m).group = some g := (hrecord m).1.trans (hstand m (hgroup ▸ hm)).1
  have hus : ∀ x ∈ (u.group g).members, (u.session x).state ≠ .free := fun x hx => by
    rw [hu, memberReady_session]
    split
    · nofun
    · exact (hstand x (hgroup ▸ hx)).2
  have hunamed : ∀ q, ∀ x ∈ (u.group g).members, u.serviceNaming q x = none := fun q x hx =>
    hu ▸ memberReady_naming (fun q r hr => hnaming q r hr x (hgroup ▸ hx)) q
  have hfails : groupGuardFailure u (u.group g).members = some (m, e.page) := by
    rw [hgroup, hmembers]
    refine groupGuardFailure_some (fun b hb => guardFailure_none ?_)
      (guardFailure_some ((hrecord m).2.trans hguards) (by simpa only [hentry] using hpre) (by rwa [hentry]))
    simpa only [hentry, hrecord] using hbefore b hb
  have hended := abortSession_groupEnded (hus m hm) hug hm (.guard e.page)
  have hqueues : u.SameQueues (abortSession m (.guard e.page) u) := sameQueues_of_told fun q =>
    abortSession_told hug hm nofun (hunamed q)
  obtain ⟨hexec, hresolved⟩ := exec_commit_resolves (tag := tag) h (hu ▸ State.Background.refl _) hended hqueues
    (hu ▸ resolveGroup_aborts hfails)
  have hpages := (hended.calm (startRelocation_calm _)).ends.pages
  refine ⟨_, hexec, hresolved, fun page => hentry page ▸ hpages page, fun hundisturbed q hroom => ?_⟩
  have hquiet : ∀ x ∈ (u.group g).members, u.Undisturbed x := fun x hx =>
    ⟨hu ▸ hundisturbed.notices, hu ▸ hundisturbed.noWaiter (hgroup ▸ hx), fun q => hunamed q x hx⟩
  have hbodies := abortSession_bodies (q := q) (reason := .guard e.page) hus hug (hgroup ▸ h.closing) (hgroup ▸ h.closer)
    (hgroup ▸ hmembers) (hgroup ▸ hundisturbed.nodup) hquiet nofun nofun
    (by rw [hgroup, hu]; exact memberReady_room hroom)
  rw [bodies_congr (startRelocation_port ..), hbodies, hu]
  simp only [memberReady_bodies, memberReady_owned, memberReady_handle]

end

/-- Settles O34: a member that is not the last is answered alone; the last one's COMMIT resolves its group, either way. -/
theorem commitMakesMemberReady : Obligations.CommitMakesMemberReady := by
  refine ⟨fun p tag handle slot g s hp howns hopen hidle hg hwaits => ?_, ?_⟩
  · have hnot : ¬ (((s.memberReady p ⟨tag, .commit handle⟩ slot).group g).state = .closing ∧
        (s.memberReady p ⟨tag, .commit handle⟩ slot).allReady g = true) := by
      rintro ⟨hclosing, hall⟩
      rcases hwaits with hne | ⟨m, hm, hne, hs⟩
      · exact hne hclosing
      · rw [memberReady_not_allReady hm hne hs] at hall
        cases hall
    have hserve := (serveCommit_member howns hopen hidle hg ⟨tag, .commit handle⟩).trans (if_neg hnot)
    exact congrArg Host.Outcome.next (sendRequest_answered_in hp rfl rfl hserve)
  · intro p closer tag handle slot g s hp howns hopen hidle hg hclosing hcloser hmem hready members onPort ended roomFor undisturbed
    have hlast : s.LastMember p handle slot g closer := ⟨hp, howns, hopen, hidle, hg, hclosing, hcloser, hmem, hready⟩
    refine ⟨fun hguards hn => ?_, fun before m after pre e post hsplit hstand hbefore hpre hpost he hnaming => ?_⟩
    · obtain ⟨t, hexec, ⟨hfree, hgroup, hresponse, hservice, hothers⟩, hpages, hrest, hnotices⟩ :=
        exec_commit_appliesGroup (tag := tag) hlast hguards hn
      exact ⟨t, hexec, ⟨hfree, hgroup, hresponse, hservice, hothers⟩, hpages, hrest,
        fun ⟨hnodup, hwaiter, hoff⟩ hwatch q hroom => hnotices ⟨hnodup, hwaiter, hoff⟩ hwatch q hroom⟩
    · obtain ⟨t, hexec, ⟨hfree, hgroup, hresponse, hservice, hothers⟩, hpages, hnotices⟩ :=
        exec_commit_abortsGroup (tag := tag) hlast hsplit hstand hbefore hpre hpost he hnaming
      refine ⟨t, hexec, ⟨hfree, hgroup, hresponse, hservice, hothers⟩, hpages, fun ⟨hnodup, hwaiter, hoff⟩ q hroom => ?_⟩
      have hfirst : ((s.owned q [m]).map fun x => NoticeBody.sessionAborted (s.handle x) (.guard e.page)) =
          if onPort q m then [.sessionAborted (s.handle m) (.guard e.page)] else [] := by
        by_cases howner : (s.session m).port = some q
        · rw [owned_singleton_of_owner howner, if_pos (decide_eq_true howner)]
          rfl
        · rw [owned_singleton_of_not_owner howner, if_neg (by simpa [onPort] using howner)]
          rfl
      exact hfirst ▸ hnotices ⟨hnodup, hwaiter, hoff⟩ q hroom

end Sys2Proof.Machine
end

-- ==== WRITE refused ====
section
/-! PROOFS. The refusals of a WRITE whose handle passes its checks: the two that any WRITE can meet, and the three of a first
write (R57, R62, R63, R64). -/

namespace Sys2Proof.Machine

section
variable {s : State} {p : PortId} {handle : Handle} {address : BitVec 16} {flags : Byte} {data : List Byte} {slot : Slot}

/-- The bounds check passes just the spans of 1 to 64 bytes within one page (R58). -/
theorem writeSpan_within_iff (hlen : data.length ≤ 64) :
    ¬ (data.length = 0 ∨ Config.writeMax < data.length ∨ 256 < address.toNat % 256 + data.length) ↔
      data ≠ [] ∧ address.toNat % 256 + data.length ≤ 256 := by
  rw [Ne, ← List.length_eq_zero_iff, Config.writeMax]
  omega

theorem serveWrite_bounds (h : checkHandle p handle true s = .ok slot) (hlen : data.length ≤ 64)
    (hspan : ¬ (data ≠ [] ∧ address.toNat % 256 + data.length ≤ 256)) :
    serveWrite p handle address flags data s = respond p .bounds s := by
  simp only [serveWrite, h]
  rw [if_pos (not_not.mp fun hin => hspan ((writeSpan_within_iff hlen).mp hin))]

theorem serveWrite_busy (h : checkHandle p handle true s = .ok slot) (hlen : data.length ≤ 64)
    (hspan : data ≠ [] ∧ address.toNat % 256 + data.length ≤ 256) (hbusy : (s.session slot).activity ≠ .idle) :
    serveWrite p handle address flags data s = respond p .busy s := by
  simp only [serveWrite, h]
  rw [if_neg ((writeSpan_within_iff hlen).mpr hspan), if_pos hbusy]

/-! ### The first write -/

variable {page : LP} {wait : Bool}

/-- A session whose shadow list is full is refused before the claim is looked at (R62). -/
theorem firstWrite_limit (hfull : 32 ≤ (s.session slot).shadows.length) :
    firstWrite p slot page address wait data s = respond p .limit s :=
  if_pos hfull

/-- A claimed page refuses a first write that does not wait, before the pool is looked at (R63). -/
theorem firstWrite_conflict {holder : Slot} (hroom : (s.session slot).shadows.length < 32)
    (hclaim : (s.entry page).claim = some holder) :
    firstWrite p slot page address false data s = respond p (.conflict (s.handle holder)) s := by
  rw [firstWrite, if_neg (show ¬ Config.shadowCapacity ≤ _ from Nat.not_le.mpr hroom), hclaim]
  rfl

/-- An unclaimed page finds no frame in an empty pool (R64). -/
theorem firstWrite_noPage (hroom : (s.session slot).shadows.length < 32) (hclaim : (s.entry page).claim = none)
    (hpool : s.pool = []) : firstWrite p slot page address wait data s = respond p .noPage s := by
  rw [firstWrite, if_neg (show ¬ Config.shadowCapacity ≤ _ from Nat.not_le.mpr hroom), hclaim, takeClaim_of_empty hpool]

/-- The event of a first write that is refused changes its port's response alone. -/
theorem exec_firstWrite_refused {tag : Byte} {a : Answer} (hp : s.PortFree p) (howns : s.Owns p handle slot)
    (hopen : (s.session slot).state = .opened) (hidle : (s.session slot).activity = .idle) (hlen : data.length ≤ 64)
    (hspan : data ≠ [] ∧ address.toNat % 256 + data.length ≤ 256)
    (hfirst : ∀ e ∈ (s.session slot).shadows, e.page ≠ Fin.ofNat 256 (address.toNat / 256))
    (hrefused : ∀ r, firstWrite p slot (Fin.ofNat 256 (address.toNat / 256)) address (flags.getLsb 0) data
      (s.serving p r none .atOnce) = respond p a (s.serving p r none .atOnce)) :
    exec (.write p tag handle address flags data) s =
      .next (s.answered p ⟨tag, .write handle address flags data⟩ a) := by
  have hfind : ((s.session slot).shadows.find? fun e => e.page = Fin.ofNat 256 (address.toNat / 256)) = none :=
    List.find?_eq_none.mpr fun e he => by simpa using hfirst e he
  rw [exec_write hp howns hopen hidle hspan.1 hlen hspan.2, hfind]
  refine congrArg Host.Outcome.next ?_
  rw [hrefused, respond_serving, settleUpTo_of_queueLaw (answered_queueLaw hp _ _)]

end

/-- Settles O28: BOUNDS and BUSY are answered before the shadow list is looked at, the other three by the first write. -/
theorem writeRefusals : Obligations.WriteRefusals := by
  intro p tag handle address flags data slot s hp howns hopen hlen r page inPage shadowed
  have hcheck : checkHandle p handle true (s.serving p r none .atOnce) = .ok slot :=
    checkHandle_of_owns (s := s.serving p r none .atOnce) howns fun _ => hopen
  have hanswered : ∀ a, serveWrite p handle address flags data (s.serving p r none .atOnce) =
      respond p a (s.serving p r none .atOnce) →
      exec (.write p tag handle address flags data) s = .next (s.answered p r a) := fun a ha =>
    congrArg Host.Outcome.next (sendRequest_answered hp (decide_eq_true hlen) ha)
  refine ⟨fun hout => hanswered _ (serveWrite_bounds hcheck hlen hout),
    fun hin hbusy => hanswered _ (serveWrite_busy hcheck hlen hin hbusy), fun hin hidle hnew => ?_⟩
  have hfirst : ∀ e ∈ (s.session slot).shadows, e.page ≠ page := fun e he hpage => hnew ⟨e, he, hpage⟩
  refine ⟨fun hfull => ?_, fun hroom => ⟨fun holder hclaim hflag => ?_, fun hclaim hpool => ?_⟩⟩
  · exact exec_firstWrite_refused hp howns hopen hidle hlen hin hfirst fun _ => firstWrite_limit hfull
  · have hwait : flags.getLsb 0 = false := hflag
    exact exec_firstWrite_refused hp howns hopen hidle hlen hin hfirst fun r' => by
      rw [hwait]
      exact firstWrite_conflict (s := s.serving p r' none .atOnce) hroom hclaim
  · exact exec_firstWrite_refused hp howns hopen hidle hlen hin hfirst fun r' =>
      firstWrite_noPage (s := s.serving p r' none .atOnce) hroom hclaim hpool

end Sys2Proof.Machine
end

-- ==== WRITE that finds its page claimed ====
section
/-! PROOFS. A first write with the wait flag set that finds its page claimed (R80, R81, R82). The deadlock check follows the
chain of waits for 9 sessions; that is far enough, since the sessions from which a chain reaches the writer grow with the
length allowed until they stand still, and there are only 8. -/

namespace Sys2Proof.Machine

/-! ### The deadlock check is reachability -/

section
variable {s : State} {requester a : Slot}

/-- One step of the chain: it has reached the requester, or goes on at the session waited for. -/
theorem chainReaches_succ_iff {n : Nat} : chainReaches s requester (n + 1) a = true ↔
    a = requester ∨ ∃ b, s.WaitsFor a b ∧ chainReaches s requester n b = true := by
  rw [chainReaches]
  by_cases hreached : a = requester
  · simp [hreached]
  by_cases hparked : (s.session a).activity = .parked
  · cases hpage : (s.session a).waitPage with
    | none => simp [State.WaitsFor, hreached, hparked, hpage]
    | some page => cases hclaim : (s.entry page).claim <;> simp [State.WaitsFor, hreached, hparked, hpage, hclaim]
  · simp [State.WaitsFor, hreached, hparked]

theorem chainReaches_mono {n m : Nat} (hle : n ≤ m) (h : chainReaches s requester n a = true) :
    chainReaches s requester m a = true := by
  induction n generalizing m a with
  | zero => cases h
  | succ n ih =>
    obtain ⟨m, rfl⟩ := Nat.exists_eq_add_one_of_ne_zero (Nat.ne_zero_of_lt hle)
    refine chainReaches_succ_iff.mpr ((chainReaches_succ_iff.mp h).imp id ?_)
    rintro ⟨b, hwaits, hb⟩
    exact ⟨b, hwaits, ih (Nat.le_of_succ_le_succ hle) hb⟩

/-- Chains of any length reach just what the waits reach. -/
theorem exists_chainReaches_iff :
    (∃ n, chainReaches s requester n a = true) ↔ Relation.ReflTransGen s.WaitsFor a requester := by
  constructor
  · rintro ⟨n, h⟩
    induction n generalizing a with
    | zero => cases h
    | succ n ih =>
      rcases chainReaches_succ_iff.mp h with rfl | ⟨b, hwaits, hb⟩
      · exact .refl
      · exact .head hwaits (ih hb)
  · intro h
    induction h using Relation.ReflTransGen.head_induction_on with
    | refl => exact ⟨1, chainReaches_succ_iff.mpr (.inl rfl)⟩
    | head hwaits _ ih =>
      obtain ⟨n, hn⟩ := ih
      exact ⟨n + 1, chainReaches_succ_iff.mpr (.inr ⟨_, hwaits, hn⟩)⟩

/-- The sessions from which a chain of at most n sessions reaches the requester. -/
def State.reaching (s : State) (requester : Slot) (n : Nat) : Finset Slot :=
  Finset.univ.filter fun a => chainReaches s requester n a = true

theorem mem_reaching {n : Nat} : a ∈ s.reaching requester n ↔ chainReaches s requester n a = true := by
  simp [State.reaching]

theorem mem_reaching_succ {n : Nat} : a ∈ s.reaching requester (n + 1) ↔
    a = requester ∨ ∃ b, s.WaitsFor a b ∧ b ∈ s.reaching requester n := by
  simp only [mem_reaching, chainReaches_succ_iff]

theorem reaching_mono : Monotone (s.reaching requester) := fun _ _ hle _ ha =>
  mem_reaching.mpr (chainReaches_mono hle (mem_reaching.mp ha))

/-- Once a longer chain reaches no further session, no chain does. -/
theorem reaching_stands {n : Nat} (h : s.reaching requester n = s.reaching requester (n + 1)) :
    s.reaching requester (n + 1) = s.reaching requester (n + 2) := by
  ext a
  rw [mem_reaching_succ, mem_reaching_succ, h]

theorem reaching_eq_of_card {n m : Nat} (hle : n ≤ m)
    (h : (s.reaching requester n).card = (s.reaching requester m).card) : s.reaching requester n = s.reaching requester m :=
  Finset.eq_of_subset_of_card_le (reaching_mono hle) h.ge

/-- With 8 sessions, a chain of 8 reaches whatever a longer one does. -/
theorem reaching_eq_of_le {n : Nat} (hn : 8 ≤ n) : s.reaching requester 8 = s.reaching requester n := by
  have hmono : Monotone fun m => (s.reaching requester m).card := fun _ _ hle => Finset.card_le_card (reaching_mono hle)
  have hbound : ∀ m, (s.reaching requester m).card ≤ 8 := fun m => Finset.card_le_univ _
  have hstands : ∀ m, (s.reaching requester m).card = (s.reaching requester (m + 1)).card →
      (s.reaching requester (m + 1)).card = (s.reaching requester (m + 2)).card := fun m h =>
    congrArg Finset.card (reaching_stands (reaching_eq_of_card m.le_succ h))
  exact reaching_eq_of_card hn (Nat.stabilises_of_monotone hmono hbound hstands hn).symm

/-- The deadlock check fails just when the holder waits, through any chain of waits, for the requester (R81). -/
theorem wouldDeadlock_iff {holder : Slot} :
    wouldDeadlock s requester holder = true ↔ Relation.ReflTransGen s.WaitsFor holder requester := by
  rw [← exists_chainReaches_iff]
  refine ⟨fun h => ⟨9, h⟩, fun ⟨n, h⟩ => ?_⟩
  have hlong := mem_reaching.mpr (chainReaches_mono (Nat.le_add_left n 8) h)
  rw [← reaching_eq_of_le (Nat.le_add_right 8 n)] at hlong
  exact chainReaches_mono (Nat.le_succ 8) (mem_reaching.mp hlong)

end

/-! ### The first write that waits -/

section
variable {s : State} {p : PortId} {handle : Handle} {address : BitVec 16} {flags : Byte} {data : List Byte}
  {slot holder : Slot} {page : LP}

theorem firstWrite_deadlock (hroom : (s.session slot).shadows.length < 32) (hclaim : (s.entry page).claim = some holder)
    (hreach : Relation.ReflTransGen s.WaitsFor holder slot) :
    firstWrite p slot page address true data s = respond p .deadlock s := by
  rw [firstWrite, if_neg (show ¬ Config.shadowCapacity ≤ _ from Nat.not_le.mpr hroom), hclaim]
  exact if_pos (wouldDeadlock_iff.mpr hreach)

/-- The state after a session parked a write: its entry at the tail of the claim wait list, its record PARKED (R80, R82). -/
def State.parkedOn (s : State) (slot : Slot) (page : LP) (address : BitVec 16) (data : List Byte) : State :=
  { s with waits := s.waits ++ [(⟨slot, page⟩ : WaitEntry)] }.setSession slot
    { s.session slot with parked := some ⟨address, data⟩, waitPage := some page, activity := .parked }

theorem firstWrite_parks (hroom : (s.session slot).shadows.length < 32) (hclaim : (s.entry page).claim = some holder)
    (hreach : ¬ Relation.ReflTransGen s.WaitsFor holder slot) :
    firstWrite p slot page address true data s = respond p .waiting (s.parkedOn slot page address data) := by
  rw [firstWrite, if_neg (show ¬ Config.shadowCapacity ≤ _ from Nat.not_le.mpr hroom), hclaim]
  exact if_neg fun h => hreach (wouldDeadlock_iff.mp h)

/-- The event of a first write that is answered after a change that no port sees. -/
theorem exec_firstWrite_answered_in {tag : Byte} {t : State} {a : Answer} (hp : s.PortFree p) (howns : s.Owns p handle slot)
    (hopen : (s.session slot).state = .opened) (hidle : (s.session slot).activity = .idle) (hlen : data.length ≤ 64)
    (hspan : data ≠ [] ∧ address.toNat % 256 + data.length ≤ 256)
    (hfirst : ∀ e ∈ (s.session slot).shadows, e.page ≠ Fin.ofNat 256 (address.toNat / 256)) (hports : t.ports = s.ports)
    (hserve : ∀ r, firstWrite p slot (Fin.ofNat 256 (address.toNat / 256)) address (flags.getLsb 0) data
      (s.serving p r none .atOnce) = t.answered p r a) :
    exec (.write p tag handle address flags data) s =
      .next (t.answered p ⟨tag, .write handle address flags data⟩ a) := by
  have hfind : ((s.session slot).shadows.find? fun e => e.page = Fin.ofNat 256 (address.toNat / 256)) = none :=
    List.find?_eq_none.mpr fun e he => by simpa using hfirst e he
  rw [exec_write hp howns hopen hidle hspan.1 hlen hspan.2, hfind]
  refine congrArg Host.Outcome.next ?_
  rw [hserve, settleUpTo_of_queueLaw (answered_queueLaw (hp.of_ports hports) _ _)]

end

/-- Settles O30: the check of the chain is reachability, and decides between the refusal and the park. -/
theorem writeParksOrDeadlocks : Obligations.WriteParksOrDeadlocks := by
  intro p tag handle address flags data slot holder s hp howns hopen hidle hdata hlen hspan hflag r page hfirst hroom hclaim
  have hwait : flags.getLsb 0 = true := hflag
  refine ⟨fun hreach => ?_, fun hreach => ?_⟩
  · refine exec_firstWrite_refused hp howns hopen hidle hlen ⟨hdata, hspan⟩ hfirst fun r' => ?_
    rw [hwait]
    exact firstWrite_deadlock (s := s.serving p r' none .atOnce) hroom hclaim hreach
  · refine exec_firstWrite_answered_in (t := s.parkedOn slot page address data) hp howns hopen hidle hlen ⟨hdata, hspan⟩
      hfirst rfl fun r' => ?_
    rw [hwait]
    exact (firstWrite_parks (s := s.serving p r' none .atOnce) hroom hclaim hreach).trans
      (respond_serving (s := s.parkedOn slot page address data) p r' none .atOnce .waiting)

end Sys2Proof.Machine
end

-- ==== CLOSE of a READY group ====
section
/-! PROOFS. CLOSE of a group whose members are all READY and whose guards hold: the apply, the members' ends and the answer in
one event (R101, R114, R118, R119). -/

namespace Sys2Proof.Machine

/-! ### The request in service through the end of the members -/

/-- The request that is in service on a port, whatever session and stage it stands at. -/
def State.serviceRequest (s : State) (q : PortId) : Option Request := (s.port q).inService.map InService.request

theorem inService_of_serviceRequest {s : State} {q : PortId} {r : Request} (h : s.serviceRequest q = some r) :
    ∃ session stage, (s.port q).inService = some ⟨r, session, stage⟩ := by
  obtain ⟨⟨_, session, stage⟩, hserv, rfl⟩ := Option.map_eq_some_iff.mp h
  exact ⟨session, stage, hserv⟩

theorem serving_serviceRequest (s : State) (p : PortId) (r : Request) (session : Option Slot) (stage : Stage) :
    (s.serving p r session stage).serviceRequest p = some r := by
  rw [State.serviceRequest, State.serving, State.setPort_port_self]
  rfl

section
variable (s : State) (q : PortId)

theorem setService_serviceRequest (p : PortId) (session : Option Slot) (stage : Stage) :
    (setService p session stage s).serviceRequest q = s.serviceRequest q := by
  simp only [setService]
  split
  · rfl
  · next req hreq =>
    rw [State.serviceRequest, State.setPort_port]
    split
    · next hq => rw [hq, State.serviceRequest, hreq]; rfl
    · rfl

theorem endApplied_serviceRequest (m : Slot) : (endApplied m s).serviceRequest q = s.serviceRequest q := by
  have hfree : ∀ t : State, (freeSession m t).serviceRequest q = t.serviceRequest q := fun _ => rfl
  simp only [endApplied, hfree]
  split
  · rfl
  · split
    · rfl
    · exact setService_serviceRequest ..

theorem endMember_serviceRequest (m : Slot) : (endMember m s).serviceRequest q = s.serviceRequest q := by
  rcases endMember_cases s m with ⟨-, h⟩ | ⟨p, -, h⟩
  · rw [h, endApplied_serviceRequest]
  · rw [h, State.serviceRequest, ((queueNotice_background ..).ports q).inService]
    exact endApplied_serviceRequest s q m

theorem endMembers_serviceRequest (l : List Slot) : (endMembers l s).serviceRequest q = s.serviceRequest q :=
  foldl_keeps (fun t : State => t.serviceRequest q) (fun t m => endMember m t) (fun t m => endMember_serviceRequest t q m) l s

end

/-! ### The apply of a group -/

section
variable {s : State} {p : PortId} {g : GroupIx} {tag group : Byte}

/-- The members of a group applied and ended, the group IDLE, the outcome still to be reported. -/
def State.groupApplied (s : State) (g : GroupIx) : State :=
  groupEnded g (s.group g).members (applyPages (s.group g).members s)

/-- Where every guard holds a CLOSE applies the group and is answered with the counts of its members and pages (R114, R118). -/
theorem resolveGroup_closes
    (h : ∀ m ∈ (s.group g).members, ∀ e ∈ (s.session m).guards, (s.entry e.page).version = e.version) :
    resolveGroup g (some p) s = respond p (.applied (s.group g).members.length
      ((s.group g).members.map fun m => (s.session m).shadows.length).sum) (s.groupApplied g) := by
  simp only [resolveGroup, groupGuardFailure_none h]
  rfl

theorem applyPages_group (s : State) (members : List Slot) (g : GroupIx) : (applyPages members s).group g = s.group g :=
  congrArg (fun groups : Vector GroupRec 4 => groups[g]) (applyPages_background s members).groups

/-- The ends of the members, seen from the state in which their pages are applied. -/
theorem groupApplied_ended (s : State) (g : GroupIx) :
    (applyPages (s.group g).members s).GroupEnded (s.groupApplied g) g := by
  have hended := groupEnded_endsGroup (applyPages (s.group g).members s) g
  rwa [applyPages_group] at hended

theorem groupApplied_sameQueues (s : State) (g : GroupIx) : s.SameQueues (s.groupApplied g) :=
  (sameQueues_of_told (applyPages_background s (s.group g).members).ports).trans (groupEnded_sameQueues _ _)

theorem groupApplied_serviceRequest (s : State) (g : GroupIx) (q : PortId) :
    (s.groupApplied g).serviceRequest q = s.serviceRequest q := by
  refine (endMembers_serviceRequest ..).trans ?_
  rw [State.serviceRequest, ((applyPages_background s (s.group g).members).ports q).inService, State.serviceRequest]

/-- What is left of a group after its apply, whatever is reported of it and whatever calm step follows. -/
structure State.GroupIsApplied (s t : State) (g : GroupIx) : Prop where
  pages   : ∀ m ∈ (s.group g).members, ∀ e ∈ (s.session m).shadows,
    (t.entry e.page).frame = e.frame ∧ (t.entry e.page).condition = .normal ∧
      (t.entry e.page).version = nextVersion (s.entry e.page).version
  rest    : ∀ page, (∀ m ∈ (s.group g).members, ∀ e ∈ (s.session m).shadows, e.page ≠ page) →
    (t.entry page).frame = (s.entry page).frame ∧ (t.entry page).version = (s.entry page).version ∧
      (t.entry page).condition = (s.entry page).condition
  members : ∀ m ∈ (s.group g).members, (t.session m).state = .free ∧ (t.session m).generation = (s.session m).generation
  group   : t.group g = { state := .idle, members := [], closer := none }
  others  : s.KeepsOthers t (· ∈ (s.group g).members) (fun _ => False)

/-- The group applied: its pages are switched, its members ended, and what calmly follows changes neither. -/
theorem groupApplied_isApplied {t : State} (h : (s.groupApplied g).Calm t)
    (hn : (((s.group g).members.flatMap fun m => (s.session m).shadows).map ShadowEntry.page).Nodup) :
    s.GroupIsApplied t g := by
  obtain ⟨u, hu⟩ : ∃ u, u = applyPages (s.group g).members s := ⟨_, rfl⟩
  have hback : s.Background u := hu ▸ applyPages_background ..
  have hgroup : u.group g = s.group g := hu ▸ applyPages_group ..
  obtain ⟨hends, hfree, hidle⟩ : u.GroupEnded t g := (hu ▸ groupApplied_ended s g).calm h
  rw [hgroup] at hends hfree
  refine ⟨fun m hm e he => ?_, fun page hpage => ?_, fun m hm => ⟨hfree m hm, ?_⟩, hidle,
    hback.keepsOthers.trans hends.others⟩
  · obtain ⟨hf, hv, hc⟩ := hends.pages e.page
    obtain ⟨haf, hac, hav⟩ := applyPages_page_of_member hn hm he
    rw [← hu] at haf hac hav
    exact ⟨hf.trans haf, hc.trans hac, hv.trans hav⟩
  · obtain ⟨hf, hv, hc⟩ := hends.pages page
    obtain ⟨haf, hav, hac⟩ := applyPages_page_of_no_member hpage
    rw [← hu] at haf hav hac
    exact ⟨hf.trans haf, hv.trans hav, hc.trans hac⟩
  · obtain ⟨-, hgeneration, -⟩ := (hback.keepsOthers (ended := fun _ => False) (cleared := fun _ => False)).sessions m id
    rw [hends.generation m, hgeneration]

/-- A request that resolves its group is still in service when the group is applied, and is answered then. -/
theorem respond_groupApplied {r : Request} (h : s.serviceRequest p = some r) (a : Answer) :
    respond p a (s.groupApplied g) = (s.groupApplied g).replied p r a := by
  obtain ⟨session, stage, hserv⟩ := inService_of_serviceRequest ((groupApplied_serviceRequest s g p).trans h)
  exact respond_eq_replied hserv a

/-- The service of a CLOSE that applies its group. -/
theorem serveClose_applies {r : Request} (h : s.serviceRequest p = some r) (hgroup : groupOfTag group = some g)
    (hstate : (s.group g).state = .gathering) (hready : s.allReady g = true)
    (hguards : ∀ m ∈ (s.group g).members, ∀ e ∈ (s.session m).guards, (s.entry e.page).version = e.version) :
    serveClose p group s = startRelocation ((s.groupApplied g).replied p r
      (.applied (s.group g).members.length ((s.group g).members.map fun m => (s.session m).shadows.length).sum)) := by
  rw [serveClose_resolves hgroup hstate hready, resolveGroup_closes hguards, respond_groupApplied h]

/-- The event of a CLOSE that applies its group. -/
theorem exec_close_applies (hp : s.PortFree p) (hgroup : group.toNat = g.val + 1) (hstate : (s.group g).state = .gathering)
    (hready : s.allReady g = true)
    (hguards : ∀ m ∈ (s.group g).members, ∀ e ∈ (s.session m).guards, (s.entry e.page).version = e.version) :
    exec (.close p tag group) s = .next (startRelocation
      (((s.serving p ⟨tag, .close group⟩ none .atOnce).groupApplied g).replied p ⟨tag, .close group⟩
        (.applied (s.group g).members.length ((s.group g).members.map fun m => (s.session m).shadows.length).sum))) := by
  have hserve := serveClose_applies (serving_serviceRequest s p ⟨tag, .close group⟩ none .atOnce)
    (groupOfTag_eq_some.mpr hgroup) hstate hready hguards
  have hqueues := groupApplied_sameQueues (s.serving p ⟨tag, .close group⟩ none .atOnce) g
  obtain ⟨hrequests, -, -⟩ := hqueues p
  rw [State.serving, State.setPort_port_self, ← State.serving] at hrequests
  refine congrArg Host.Outcome.next ?_
  rw [sendRequest_of_free hp rfl]
  refine (congrArg (settleUpTo s.queued) hserve).trans (settleUpTo_of_queueLaw (fun q => ?_) _)
  rw [startRelocation_port]
  exact replied_queueLaw (hqueues.queueLaw (serving_queueLaw hp _ none .atOnce)) (hrequests.trans hp.queue) _ q

end

/-- Settles O36: the CLOSE resolves its group by the apply, is answered with the counts, and nothing calm after it changes what
was applied. -/
theorem closeAppliesGroup : Obligations.CloseAppliesGroup := by
  intro p tag group g s hp hgroup hstate hready hguards hn
  obtain ⟨w, hw⟩ : ∃ w, w = s.serving p ⟨tag, .close group⟩ none .atOnce := ⟨_, rfl⟩
  obtain ⟨a, ha⟩ : ∃ a, a = Answer.applied (s.group g).members.length
    ((s.group g).members.map fun m => (s.session m).shadows.length).sum := ⟨_, rfl⟩
  have hexec := exec_close_applies (tag := tag) hp hgroup hstate
    (List.all_eq_true.mpr fun m hm => decide_eq_true (hready m hm)) hguards
  rw [← hw, ← ha] at hexec
  have hcalm : (w.groupApplied g).Calm (startRelocation ((w.groupApplied g).replied p ⟨tag, .close group⟩ a)) := by
    rw [← respond_groupApplied (hw ▸ serving_serviceRequest ..)]
    exact (respond_calm ..).trans (startRelocation_calm _)
  obtain ⟨hpages, hrest, hmembers, hidle, hothers⟩ := groupApplied_isApplied hcalm (hw ▸ hn)
  have hport : (startRelocation ((w.groupApplied g).replied p ⟨tag, .close group⟩ a)).port p = _ :=
    (startRelocation_port ..).trans (State.setPort_port_self ..)
  have hresponses : ((w.groupApplied g).port p).responses = (s.port p).responses := by
    rw [(groupApplied_sameQueues w g p).2.1, hw, State.serving, State.setPort_port_self]
    rfl
  subst hw
  refine ⟨_, hexec, hpages, hrest, hmembers, hidle, ?_, ?_, (serving_keepsOthers ..).trans hothers⟩
  · rw [hport, hresponses, ha]
  · rw [hport]

end Sys2Proof.Machine
end

-- ==== The watchers of an applied page ====
section
/-! PROOFS. The WATCH_CHANGED notices of an apply, port by port: who is told, and what its queue holds then (R106, R146, R147,
R150). -/

namespace Sys2Proof.Machine

/-! ### The notices to a page's watchers -/

section
variable (s : State) (page : LP) (handle : Handle) {p q : PortId}

/-- One port is told of a page's new version, where it watches the page (R106). -/
def tellWatcher (p : PortId) : State :=
  if (s.port p).watches.contains page then queueNotice p (.watchChanged page (s.entry page).version handle) s else s

theorem notifyWatchers_eq_foldl : notifyWatchers page handle s =
    (List.finRange 4).foldl (fun t p => tellWatcher t page handle p) s := rfl

theorem tellWatcher_port_of_ne (h : q ≠ p) : (tellWatcher s page handle p).port q = s.port q := by
  rw [tellWatcher]
  split
  · exact queueNotice_port_of_ne s h _
  · rfl

/-- Telling other ports leaves a port as it was. -/
theorem tellWatchers_of_not_mem {l : List PortId} (h : q ∉ l) :
    (l.foldl (fun t p => tellWatcher t page handle p) s).port q = s.port q := by
  induction l generalizing s with
  | nil => rfl
  | cons p l ih =>
    obtain ⟨hne, hl⟩ := not_or.mp (List.mem_cons.not.mp h)
    rw [List.foldl_cons, ih _ hl, tellWatcher_port_of_ne s page handle hne]

theorem tellWatchers_frame (l : List PortId) :
    (l.foldl (fun t p => tellWatcher t page handle p) s).settings = s.settings ∧
      (l.foldl (fun t p => tellWatcher t page handle p) s).entry page = s.entry page :=
  ⟨foldl_keeps State.settings _ (fun t p => by rw [tellWatcher]; split <;> simp) l s,
   foldl_keeps (fun t : State => t.entry page) _ (fun t p => by simp only [tellWatcher]; split <;> simp) l s⟩

/-- Each port is told for itself: the other ports' notices come before or after its own and do not touch it. -/
theorem notifyWatchers_port (q : PortId) :
    (notifyWatchers page handle s).port q = (tellWatcher s page handle q).port q := by
  obtain ⟨before, after, hsplit⟩ := List.append_of_mem (List.mem_finRange q)
  have hnodup : (before ++ q :: after).Nodup := hsplit ▸ List.nodup_finRange 4
  obtain ⟨-, hafter, hbefore⟩ := List.nodup_append.mp hnodup
  have hqb : q ∉ before := fun h => hbefore q h q (List.mem_cons_self ..) rfl
  obtain ⟨u, hu⟩ : ∃ u, u = before.foldl (fun t p => tellWatcher t page handle p) s := ⟨_, rfl⟩
  have hport : u.port q = s.port q := hu ▸ tellWatchers_of_not_mem s page handle hqb
  obtain ⟨hsettings, hentry⟩ : u.settings = s.settings ∧ u.entry page = s.entry page := hu ▸ tellWatchers_frame ..
  rw [notifyWatchers_eq_foldl, hsplit, List.foldl_append, List.foldl_cons, ← hu,
    tellWatchers_of_not_mem _ page handle (List.nodup_cons.mp hafter).1, tellWatcher, tellWatcher, hport, hentry]
  split
  · exact queueNotice_port_congr s hsettings hport hport
  · exact hport

/-- A port's notices, its overrun flag and its watch list. -/
def PortRec.noticeSide (r : PortRec) : List Notice × Bool × List LP := (r.notices, r.overrun, r.watches)

theorem noticeSide_eq_iff {r r' : PortRec} : r'.noticeSide = r.noticeSide ↔
    r'.notices = r.notices ∧ r'.overrun = r.overrun ∧ r'.watches = r.watches := by
  simp only [PortRec.noticeSide, Prod.mk.injEq]

/-- A port's notices and overrun flag after it was told something: the notice joins the tail with the overrun value, or is
dropped at a full queue with the flag set (R146, R147). -/
structure PortRec.HoldsNotice (r r' : PortRec) (body : NoticeBody) : Prop where
  room : r.notices.length < 8 → r'.notices = r.notices ++ [⟨body, r.overrun⟩] ∧ r'.overrun = false
  full : 8 ≤ r.notices.length → r'.notices = r.notices ∧ r'.overrun = true

theorem PortRec.HoldsNotice.congr {r r' x x' : PortRec} {body : NoticeBody} (h : r.HoldsNotice r' body)
    (hr : r.noticeSide = x.noticeSide) (hr' : x'.noticeSide = r'.noticeSide) : x.HoldsNotice x' body := by
  obtain ⟨hn, ho, -⟩ := noticeSide_eq_iff.mp hr
  obtain ⟨hn', ho', -⟩ := noticeSide_eq_iff.mp hr'
  obtain ⟨hroom, hfull⟩ := h
  rw [← hn', ← ho', hn, ho] at hroom
  rw [← hn', ← ho', hn] at hfull
  exact ⟨hroom, hfull⟩

theorem queueNotice_holds (q : PortId) (body : NoticeBody) :
    (s.port q).HoldsNotice ((queueNotice q body s).port q) body where
  room h := by
    rw [queueNotice_of_room h, State.setPort_port_self]
    exact ⟨rfl, rfl⟩
  full h := by
    rw [queueNotice_of_full h, State.setPort_port_self]
    exact ⟨rfl, rfl⟩

theorem notifyWatchers_of_not_watching (h : page ∉ (s.port q).watches) :
    (notifyWatchers page handle s).port q = s.port q := by
  rw [notifyWatchers_port, tellWatcher, if_neg (by simpa using h)]

theorem notifyWatchers_holds (h : page ∈ (s.port q).watches) : (s.port q).HoldsNotice
    ((notifyWatchers page handle s).port q) (.watchChanged page (s.entry page).version handle) := by
  rw [notifyWatchers_port, tellWatcher, if_pos (by simpa using h)]
  exact queueNotice_holds ..

end

/-! ### The watchers of a committed page -/

section
variable {s : State} {p : PortId} {slot : Slot} {r : Request} {e : ShadowEntry}

theorem replied_noticeSide (s : State) (p : PortId) (r : Request) (a : Answer) (q : PortId) :
    ((s.replied p r a).port q).noticeSide = (s.port q).noticeSide := by
  rw [replied_port]
  split
  · next hq => rw [hq]; rfl
  · rfl

theorem serving_noticeSide (s : State) (p : PortId) (r : Request) (session : Option Slot) (stage : Stage) (q : PortId) :
    ((s.serving p r session stage).port q).noticeSide = (s.port q).noticeSide := by
  rw [State.serving, State.setPort_port]
  split
  · next hq => rw [hq]; rfl
  · rfl

/-- A session that a handle names has that handle. -/
theorem handle_of_named {handle : Handle} (h : s.named handle = some slot) : s.handle slot = handle := by
  simp only [State.named] at h
  split at h
  · next hs => exact Option.some.inj h ▸ hs.2
  · cases h

/-- The apply of a single page that no write waits for, where no port takes fault notices, reaches the ports by the notices to
its watchers alone: it is told after the switch, which leaves every port and steps the page's version. -/
theorem commitApplied_one (hone : (s.session slot).shadows = [e]) (hwaits : s.waits = [])
    (hnotices : ∀ q : PortId, s.settings.faultNotices[q] = false) : ∃ u : State,
    s.commitApplied p r slot = notifyWatchers e.page (s.handle slot) u ∧
      (∀ q, (u.port q).noticeSide = (s.port q).noticeSide) ∧
      (u.entry e.page).version = nextVersion (s.entry e.page).version := by
  refine ⟨switchEntry e (s.serving p r (some slot) .atOnce), ?_, fun q => ?_, ?_⟩
  · exact applyPages_one (s := s.serving p r (some slot) .atOnce) hone (by simp [State.serving, hwaits])
  · rw [switchEntry_port (s.serving p r (some slot) .atOnce) (hnotices q)]
    exact serving_noticeSide ..
  · rw [switchEntry_entry]
    rfl

end

/-- Settles O32: the COMMIT's answer leaves what the apply told each port, and the apply tells each watcher for itself. -/
theorem applyTellsWatchers : Obligations.ApplyTellsWatchers := by
  intro p tag handle slot e s hp howns hopen hidle hgroup hguards hone hwaits hnotices
  have hexec := exec_commit (tag := tag) hp howns hopen hidle hgroup (by simp [hguards])
  obtain ⟨u, happly, hside, hversion⟩ := commitApplied_one (p := p) (r := ⟨tag, .commit handle⟩) hone hwaits hnotices
  rw [happly, handle_of_named howns.1] at hexec
  refine ⟨_, hexec, fun q => ?_⟩
  obtain ⟨hn, ho, hw⟩ := noticeSide_eq_iff.mp (hside q)
  have hanswer := (congrArg PortRec.noticeSide (committed_port (notifyWatchers e.page handle u) p ⟨tag, .commit handle⟩ slot
    (s.session slot).shadows.length q)).trans (replied_noticeSide ..)
  have hwatching : e.page ∈ (s.port q).watches → (s.port q).HoldsNotice
      (((notifyWatchers e.page handle u).committed p ⟨tag, .commit handle⟩ slot (s.session slot).shadows.length).port q)
      (.watchChanged e.page (nextVersion (s.entry e.page).version) handle) := fun hmem =>
    hversion ▸ (notifyWatchers_holds u e.page handle (hw ▸ hmem)).congr (hside q) hanswer
  refine ⟨fun hnot => ?_, fun hmem => (hwatching hmem).room, fun hmem => (hwatching hmem).full⟩
  rw [notifyWatchers_of_not_watching u e.page handle (hw ▸ hnot)] at hanswer
  obtain ⟨hn', ho', -⟩ := noticeSide_eq_iff.mp hanswer
  exact ⟨hn'.trans hn, ho'.trans ho⟩

end Sys2Proof.Machine
end

-- ==== CLOSE that resolves nothing ====
section
/-! PROOFS. CLOSE by the cases of its table in which no group is resolved (R114, R115). -/

namespace Sys2Proof.Machine

/-- A tag byte outside 1 to 4 names no group. -/
theorem groupOfTag_eq_none {tag : Byte} : groupOfTag tag = none ↔ tag = 0 ∨ 4 < tag.toNat := by
  have hzero : tag = 0 ↔ tag.toNat = 0 := BitVec.toNat_inj.symm
  rw [hzero, groupOfTag, dite_eq_right_iff]
  simp only [reduceCtorEq, imp_false]
  omega

section
variable {s : State} {p : PortId} {g : GroupIx} {tag group : Byte}

/-- The record of a group once a port's CLOSE found a member of it not READY (R115). -/
def GroupRec.closingBy (r : GroupRec) (p : PortId) : GroupRec := { r with state := .closing, closer := some p }

theorem serveClose_badValue (h : groupOfTag group = none) : serveClose p group s = respond p .badValue s := by
  simp only [serveClose, h]

theorem serveClose_groupEmpty (hg : groupOfTag group = some g) (hstate : (s.group g).state = .idle) :
    serveClose p group s = respond p .groupEmpty s := by
  simp only [serveClose, hg, hstate]

theorem serveClose_already (hg : groupOfTag group = some g) (hstate : (s.group g).state = .closing) :
    serveClose p group s = respond p .already s := by
  simp only [serveClose, hg, hstate]

theorem serveClose_closing (hg : groupOfTag group = some g) (hstate : (s.group g).state = .gathering)
    (hready : ¬ s.allReady g = true) :
    serveClose p group s = respond p .closing (s.setGroup g ((s.group g).closingBy p)) := by
  simp only [serveClose, hg, hstate, if_neg hready]
  rfl

theorem not_allReady_iff : ¬ s.allReady g = true ↔ ∃ m ∈ (s.group g).members, (s.session m).state ≠ .ready := by
  simp [State.allReady]

/-- The event of a CLOSE whose service is one answer. -/
theorem exec_close_answered {a : Answer} (hp : s.PortFree p)
    (h : serveClose p group (s.serving p ⟨tag, .close group⟩ none .atOnce) =
      respond p a (s.serving p ⟨tag, .close group⟩ none .atOnce)) :
    exec (.close p tag group) s = .next (s.answered p ⟨tag, .close group⟩ a) :=
  congrArg Host.Outcome.next (sendRequest_answered hp rfl h)

/-- The event of a CLOSE that finds a member not READY: the group waits for it, CLOSING. -/
theorem exec_close_closing (hp : s.PortFree p) (hg : groupOfTag group = some g) (hstate : (s.group g).state = .gathering)
    (hready : ¬ s.allReady g = true) :
    exec (.close p tag group) s =
      .next ((s.setGroup g ((s.group g).closingBy p)).answered p ⟨tag, .close group⟩ .closing) := by
  have hserve := serveClose_closing (s := s.serving p ⟨tag, .close group⟩ none .atOnce) (p := p) hg hstate hready
  exact congrArg Host.Outcome.next (sendRequest_answered_in hp rfl (State.setGroup_ports ..)
    (hserve.trans (respond_serving (s := s.setGroup g _) p _ none .atOnce .closing)))

end

/-- Settles O35: a tag of no group, and each state of the group that it names, leads to one answer. -/
theorem closeCases : Obligations.CloseCases := by
  intro p tag group s hp r
  refine ⟨fun htag => exec_close_answered hp (serveClose_badValue (groupOfTag_eq_none.mpr htag)), fun g htag => ?_⟩
  have hg := groupOfTag_eq_some.mpr htag
  refine ⟨fun hidle => ?_, fun hclosing => ?_, fun hgathering hmember => ?_⟩
  · exact exec_close_answered hp (serveClose_groupEmpty (s := s.serving p r none .atOnce) hg hidle)
  · exact exec_close_answered hp (serveClose_already (s := s.serving p r none .atOnce) hg hclosing)
  · exact exec_close_closing hp hg hgathering (not_allReady_iff.mpr hmember)

end Sys2Proof.Machine
end

-- ==== The ATTN lines of all ports ====
section
/-! PROOFS. The re-evaluation of the ATTN lines after a change of the masks (R157): each port's line, and nothing but ports. -/

namespace Sys2Proof.Machine

/-- The state with other port records. -/
def State.withPorts (s : State) (ports : Vector PortRec 4) : State := { s with ports := ports }

/-- The re-evaluation of the ATTN lines changes ports alone. -/
theorem evalAllAttn_withPorts (s : State) (ports : Vector PortRec 4) :
    (evalAllAttn s).withPorts ports = s.withPorts ports :=
  foldl_keeps (State.withPorts · ports) _ (fun _ _ => by rfl) _ _

/-- A run over ports re-evaluates the ATTN line of each port in it. -/
theorem foldl_evalAttn_port (l : List PortId) (s : State) (q : PortId) :
    (l.foldl (fun t p => t.setPort p ((t.port p).evalAttn t.settings p)) s).port q =
      if q ∈ l then (s.port q).evalAttn s.settings q else s.port q := by
  induction l generalizing s with
  | nil => rfl
  | cons p l ih =>
    rw [List.foldl_cons, ih, State.setPort_settings, State.setPort_port]
    by_cases hq : q = p
    · subst hq
      rw [if_pos rfl, if_pos List.mem_cons_self]
      split <;> rfl
    · rw [if_neg hq]
      exact if_congr (by simp [hq]) rfl rfl

theorem evalAllAttn_port (s : State) (q : PortId) : (evalAllAttn s).port q = (s.port q).evalAttn s.settings q := by
  rw [evalAllAttn, foldl_evalAttn_port, if_pos (List.mem_finRange q)]

end Sys2Proof.Machine
end

-- ==== The fault log ====
section
/-! PROOFS. A record joins the fault log behind at most fifteen others, and takes the next sequence number with it (R133). -/

namespace Sys2Proof.Machine

section
variable {s t : State}

/-- The re-evaluation of the ATTN lines leaves the fault log. -/
theorem evalAllAttn_log (s : State) : (evalAllAttn s).log = s.log ∧ (evalAllAttn s).nextSeq = s.nextSeq :=
  have h := evalAllAttn_withPorts s s.ports
  ⟨(congrArg State.log h :), (congrArg State.nextSeq h :)⟩

/-- The records that stay when another joins are the fifteen newest, or all where there are fewer. -/
theorem trimmedLog_reverse (s : State) : s.trimmedLog.reverse = s.log.reverse.take 15 := by
  rw [trimmedLog_eq]
  split
  · next h => exact (List.take_of_length_le (by rw [List.length_reverse]; omega)).symm
  · next h => rw [List.reverse_drop, show s.log.length - (s.log.length - 15) = 15 by omega]

theorem trimmedLog_length (s : State) : s.trimmedLog.length = min 15 s.log.length := by
  rw [← List.length_reverse, trimmedLog_reverse, List.length_take, List.length_reverse]

/-- Sequence numbers counted down from the next one, one more in front: the count goes down from the number after it. -/
theorem countDown_succ (next : BitVec 16) (n : Nat) :
    ((List.range (n + 1)).map fun i => next + 1 - BitVec.ofNat 16 (i + 1)) =
      next :: (List.range n).map fun i => next - BitVec.ofNat 16 (i + 1) := by
  rw [List.range_succ_eq_map, List.map_cons, List.map_map]
  refine congrArg₂ List.cons (by bv_omega) (List.map_congr_left fun i _ => ?_)
  simp only [Function.comp_apply, Nat.succ_eq_add_one, BitVec.ofNat_add i.succ 1]
  bv_omega

/-- The fault log law reads the log and the next sequence number alone. -/
theorem State.LogLaw.congr (hs : s.LogLaw) (hlog : t.log = s.log) (hseq : t.nextSeq = s.nextSeq) : t.LogLaw := by
  rw [State.LogLaw, hlog, hseq]
  exact hs

/-- A record that carries the next sequence number joins the log and keeps its law. -/
theorem logged_logLaw (hs : s.LogLaw) {r : FaultRecord} (hr : r.seq = s.nextSeq) : (s.logged r).LogLaw := by
  obtain ⟨_, hseqs⟩ := hs
  have hlen : (s.logged r).log.length = min 15 s.log.length + 1 := by
    rw [State.logged, List.length_append, trimmedLog_length, List.length_singleton]
  refine ⟨by omega, ?_⟩
  calc (s.logged r).log.reverse.map FaultRecord.seq
      = s.nextSeq :: (s.log.reverse.map FaultRecord.seq).take 15 := by
        rw [State.logged, List.reverse_append, trimmedLog_reverse, ← List.map_take, ← hr]
        rfl
    _ = s.nextSeq :: (List.range (min 15 s.log.length)).map fun i => s.nextSeq - BitVec.ofNat 16 (i + 1) := by
        rw [hseqs, ← List.map_take, List.take_range]
    _ = (List.range (s.logged r).log.length).map fun i => (s.logged r).nextSeq - BitVec.ofNat 16 (i + 1) := by
        rw [hlen]
        exact (countDown_succ s.nextSeq _).symm

/-- Every edit keeps the fault log law: one alone touches the log, and it appends a record with the next number. -/
theorem Edit.logLaw (h : Edit s t) (hs : s.LogLaw) : t.LogLaw := by
  cases h with
  | record r hr => exact logged_logLaw hs hr
  | configure record timer hr hf => exact hs.congr (evalAllAttn_log _).1 (evalAllAttn_log _).2
  | allocate _ state owner pf hst ha =>
    simp only [Machine.allocate] at ha
    split at ha
    · cases ha
    · cases ha
      exact hs
  | notice p body => exact hs.congr (by simp) (by simp)
  | respond p a => exact hs.congr (by simp) (by simp)
  | service p session stage => exact hs.congr (by simp) (by simp)
  | discard p cause => exact hs.congr (by simp) (by simp)
  | fetch p =>
    simp only [completeFetch]
    split
    · exact hs
    · exact hs
  | _ => exact hs

end

/-- Settles O55: every edit keeps the law, and a device reset empties the log. -/
theorem stepKeepsFaultLog : Obligations.StepKeepsFaultLog := fun _ _ hs hstep =>
  step_keeps (fun _ _ => Edit.logLaw) (fun _ => id) (fun _ => id) (fun _ _ => ⟨Nat.zero_le _, rfl⟩) (fun _ _ => id) hstep hs

end Sys2Proof.Machine
end

-- ==== The write-back ====
section
/-! PROOFS. One access of the Check Unit: the entry at the head of its list is dealt with and leaves (R129). -/

namespace Sys2Proof.Machine

section
variable {s : State} {b : WriteBack} {rest : List WriteBack}

/-- The access of the Check Unit where the entry at the head of its list is of a frame that is not RETIRED. -/
theorem clientAccess_writeBack (h : s.writeBacks = b :: rest) (hb : (s.frame b.frame).state ≠ .retired) :
    clientAccess 7 s = writeBackStep b rest s := by
  have hlive : s.liveWriteBacks = b :: rest := by
    rw [State.liveWriteBacks, h, List.dropWhile_cons_of_neg (by simpa using hb)]
  simp only [clientAccess, hlive]

/-- The comparison of a write-back reads the word that the entry names (R129). -/
theorem writeBackStep_of_match (h : (s.word b.frame b.word).diff = b.syndrome ∧
    (s.word b.frame b.word).decode = .correctable b.data) :
    writeBackStep b rest s = { s with writeBacks := rest }.writeWord b.frame b.word b.data := if_pos h

theorem writeBackStep_of_mismatch (h : ¬ ((s.word b.frame b.word).diff = b.syndrome ∧
    (s.word b.frame b.word).decode = .correctable b.data)) :
    writeBackStep b rest s = { s with writeBacks := rest } := if_neg h

end

/-- Settles O44: the entry is at the head of the live list, its comparison decides about the write, and nothing follows. -/
theorem writeBackComparesFirst : Obligations.WriteBackComparesFirst := by
  intro b rest s hquiet hnext hlist hlive w
  have hexec : exec (.storeArbiterGrant 0) s = .next (endEvent (writeBackStep b rest { s with lastGranted := 7 })) := by
    rw [exec_grant_zero hnext, clientAccess_writeBack (s := { s with lastGranted := 7 }) hlist hlive]
  refine ⟨fun hdiff hdecode => ?_, fun hmismatch => ?_⟩
  · rw [hexec, writeBackStep_of_match (s := { s with lastGranted := 7 }) ⟨hdiff, hdecode⟩]
    exact congrArg Host.Outcome.next (endEvent_of_quiet (hquiet.congr rfl rfl))
  · rw [hexec, writeBackStep_of_mismatch (s := { s with lastGranted := 7 }) hmismatch]
    exact congrArg Host.Outcome.next (endEvent_of_quiet (hquiet.congr rfl rfl))

end Sys2Proof.Machine
end

-- ==== LOGREAD and SETCONFIG ====
section
/-! PROOFS. LOGREAD finds the oldest record that qualifies (R136); SETCONFIG replaces the settings, retimes the scrubber and
re-evaluates every ATTN line before it is answered (R155, R157). -/

namespace Sys2Proof.Machine

/-! ### LOGREAD -/

section
variable {s : State} {p : PortId} {seq : BitVec 16}

theorem serveLogRead_found {before after : List FaultRecord} {f : FaultRecord} (hlog : s.log = before ++ f :: after)
    (hbefore : ∀ g ∈ before, ¬ (g.seq - seq).toNat ≤ 32767) (hf : (f.seq - seq).toNat ≤ 32767) :
    serveLogRead p seq s = respond p (.logOk f s.log.length s.nextSeq) s := by
  have hfound : qualifying s seq = some f := by
    rw [qualifying, List.find?_eq_some_iff_append]
    exact ⟨decide_eq_true (Nat.lt_succ_of_le hf), before, after, hlog, fun g hg => by
      rw [decide_eq_false fun hlt => hbefore g hg (Nat.le_of_lt_succ hlt)]
      rfl⟩
  simp only [serveLogRead, hfound]

theorem serveLogRead_empty (hlog : ∀ f ∈ s.log, ¬ (f.seq - seq).toNat ≤ 32767) :
    serveLogRead p seq s = respond p (.logEmpty s.nextSeq) s := by
  have hnone : qualifying s seq = none := by
    rw [qualifying, List.find?_eq_none]
    exact fun f hf hlt => hlog f hf (Nat.le_of_lt_succ (of_decide_eq_true hlt))
  simp only [serveLogRead, hnone]

end

/-- Settles O25: the search of the log finds the oldest record that qualifies, or none, and the request is one answer. -/
theorem logReadReturnsRecord : Obligations.LogReadReturnsRecord := by
  intro p tag seq s hp r qualifies
  refine ⟨fun hnone => ?_, fun before f after hlog hbefore hf => ?_⟩
  · exact congrArg Host.Outcome.next
      (sendRequest_answered hp rfl (serveLogRead_empty (s := s.serving p r none .atOnce) hnone))
  · exact congrArg Host.Outcome.next
      (sendRequest_answered hp rfl (serveLogRead_found (s := s.serving p r none .atOnce) hlog hbefore hf))

/-! ### The settings record -/

theorem configInRange_iff (record : ConfigRecord) : configInRange record = true ↔
    record.scrubPeriod.toNat ≤ 1000 ∧ (1 ≤ record.retireThreshold.toNat ∧ record.retireThreshold.toNat ≤ 15) ∧
      (1 ≤ record.defaultBudget.toNat ∧ record.defaultBudget.toNat ≤ 4000) ∧
      ∀ q : PortId, record.quotas[q].toNat ≤ 8 := by
  have hquotas : (∀ x ∈ record.quotas.toList, x.toNat ≤ 8) ↔ ∀ q : PortId, record.quotas[q].toNat ≤ 8 := by
    simp only [Vector.mem_toList_iff]
    constructor
    · exact fun h q => h _ (Vector.getElem_mem q.isLt)
    · intro h x hx
      obtain ⟨i, hi, rfl⟩ := Vector.mem_iff_getElem.mp hx
      exact h ⟨i, hi⟩
  simp only [configInRange, Bool.and_eq_true, decide_eq_true_eq, List.all_eq_true, hquotas, and_assoc]

/-- The settings that a record stands for at one port. -/
theorem configSettings_port (record : ConfigRecord) (q : PortId) :
    (configSettings record).quotas[q] = record.quotas[q].toNat ∧
      (configSettings record).respMask[q] = record.portBytes[q].getLsbD 0 ∧
      (configSettings record).noteMask[q] = record.portBytes[q].getLsbD 1 ∧
      (configSettings record).faultNotices[q] = record.portBytes[q].getLsbD 2 := by
  simp [configSettings]

theorem retime_eq (period : BitVec 16) (scrub : Option ScrubRead) : retime period.toNat scrub =
    if period = 0 ∨ scrub.isSome = true then none else some period.toNat := by
  have hzero : period.toNat = 0 ↔ period = 0 := by bv_omega
  cases scrub with
  | none => simp [retime, hzero]
  | some r => simp [retime]

/-! ### SETCONFIG -/

/-- The state with the settings of a record and the timer as its period has it (R137, R155). -/
def State.configured (s : State) (record : ConfigRecord) : State :=
  { s with
    settings := configSettings record
    timer := if record.scrubPeriod.toNat = s.settings.scrubPeriod then s.timer
      else retime record.scrubPeriod.toNat s.scrub }

section
variable {s : State} {p : PortId} {record : ConfigRecord}

theorem serveSetConfig_badValue (h : ¬ configInRange record = true) :
    serveSetConfig p record s = respond p .badValue s := by
  simp [serveSetConfig, h]

theorem serveSetConfig_busy (h : configInRange record = true) (hbusy : ∃ slot, (s.session slot).state ≠ .free) :
    serveSetConfig p record s = respond p .busy s := by
  simp [serveSetConfig, h, hbusy]

theorem serveSetConfig_done (h : configInRange record = true) (hfree : ∀ slot, (s.session slot).state = .free) :
    serveSetConfig p record s = respond p .done (evalAllAttn (s.configured record)) := by
  simp [serveSetConfig, h, hfree, State.configured, configSettings]

end

section
variable (s : State) (p : PortId) (r : Request) (record : ConfigRecord)

/-- An answer leaves every notice queue. -/
theorem answered_notices (a : Answer) (q : PortId) : ((s.answered p r a).port q).notices = (s.port q).notices := by
  rw [State.answered, State.setPort_port]
  split
  · next hq => rw [hq]; rfl
  · rfl

/-- The state that an accepted SETCONFIG leaves: configured, every ATTN line re-evaluated, and answered. -/
def State.reconfigured : State :=
  (evalAllAttn ((s.serving p r none .atOnce).configured record)).replied p r .done

theorem configured_serving_port (q : PortId) : (evalAllAttn ((s.serving p r none .atOnce).configured record)).port q =
    ((s.serving p r none .atOnce).port q).evalAttn (configSettings record) q := evalAllAttn_port _ q

theorem serving_port_self : (s.serving p r none .atOnce).port p =
    { (s.port p).took (requestSize r) with inService := some ⟨r, none, .atOnce⟩ } := State.setPort_port_self ..

theorem respond_configured : respond p .done (evalAllAttn ((s.serving p r none .atOnce).configured record)) =
    s.reconfigured p r record :=
  respond_eq_replied (by rw [configured_serving_port, serving_port_self]; rfl) _

theorem reconfigured_settings : (s.reconfigured p r record).settings = configSettings record :=
  (evalAllAttn_tables _).1

/-- Every port is as the answer leaves it, its ATTN line as the new masks have it. -/
theorem reconfigured_port (q : PortId) : (s.reconfigured p r record).port q =
    ((s.answered p r .done).port q).evalAttn (configSettings record) q := by
  rw [State.reconfigured, replied_port, State.answered, State.setPort_port]
  split
  · next hq =>
    subst hq
    rw [configured_serving_port, serving_port_self, (evalAllAttn_tables _).1]
    have hheld : ((s.port q).responses ++ [(⟨r.tag, .done⟩ : Response)]).isEmpty = false := by simp
    simp [PortRec.evalAttn, attnWanted, State.configured, PortRec.took, hheld]
  · next hq => rw [configured_serving_port, State.serving, State.setPort_port_of_ne s _ hq]

/-- An accepted SETCONFIG changes the settings, the timer and the ports alone. -/
theorem reconfigured_withPorts (ports : Vector PortRec 4) :
    (s.reconfigured p r record).withPorts ports = (s.configured record).withPorts ports :=
  evalAllAttn_withPorts ((s.serving p r none .atOnce).configured record) ports

theorem reconfigured_timer : (s.reconfigured p r record).timer = (s.configured record).timer :=
  (congrArg State.timer (reconfigured_withPorts s p r record s.ports) :)

variable {s p}

theorem reconfigured_queueLaw (hp : s.PortFree p) : (s.reconfigured p r record).QueueLaw := fun q => by
  rw [reconfigured_port]
  exact answered_queueLaw hp r .done q

/-- The event of a SETCONFIG in range while every slot is FREE. -/
theorem exec_setConfig_done {record : ConfigRecord} {tag : Byte} (hp : s.PortFree p) (h : configInRange record = true)
    (hfree : ∀ slot, (s.session slot).state = .free) :
    exec (.setConfig p tag record) s = .next (s.reconfigured p ⟨tag, .setConfig record⟩ record) := by
  have hserve : serve p (.setConfig record) (s.serving p ⟨tag, .setConfig record⟩ none .atOnce) =
      s.reconfigured p ⟨tag, .setConfig record⟩ record :=
    (serveSetConfig_done (s := s.serving p _ none .atOnce) h hfree).trans (respond_configured s p _ record)
  refine congrArg Host.Outcome.next ((sendRequest_of_free hp rfl).trans ?_)
  rw [hserve, settleUpTo_of_queueLaw (reconfigured_queueLaw _ record hp)]

end

/-- Settles O24: the two refusals are one answer each; the accepted record is in force before the answer, and every ATTN line
follows its masks. -/
theorem setConfigReplacesRecord : Obligations.SetConfigReplacesRecord := by
  intro p tag record s hp r inRange
  refine ⟨fun hout => ?_, fun hin hbusy => ?_, fun hin hfree => ?_⟩
  · exact congrArg Host.Outcome.next (sendRequest_answered hp rfl
      (serveSetConfig_badValue (s := s.serving p r none .atOnce) (mt (configInRange_iff record).mp hout)))
  · exact congrArg Host.Outcome.next (sendRequest_answered hp rfl
      (serveSetConfig_busy (s := s.serving p r none .atOnce) ((configInRange_iff record).mpr hin) hbusy))
  · refine ⟨_, exec_setConfig_done hp ((configInRange_iff record).mpr hin) hfree, ?_⟩
    have hsettings := reconfigured_settings s p r record
    have htimer := reconfigured_timer s p r record
    refine ⟨congrArg Settings.scrubPeriod hsettings, congrArg Settings.retireThreshold hsettings,
      congrArg Settings.defaultBudget hsettings, fun q => ?_, ?_, fun q => ?_, ?_⟩
    · rw [hsettings]
      exact configSettings_port record q
    · exact htimer.trans (if_congr Iff.rfl rfl (retime_eq record.scrubPeriod s.scrub))
    · have hport : (if q = p then (s.answered p r .done).port q else s.port q) = (s.answered p r .done).port q :=
        ite_eq_left_iff.mpr fun hq => (State.setPort_port_of_ne s _ hq).symm
      rw [hport, hsettings, reconfigured_port, ← answered_notices s p r .done q]
      rfl
    · rw [hsettings, htimer]
      exact reconfigured_withPorts s p r record _

end Sys2Proof.Machine
end

-- ==== WATCH, UNWATCH and GETCONFIG ====
section
/-! PROOFS. The requests that change a port's watch list alone before their answer (R151, R152), and the report of the settings
record (R156). -/

namespace Sys2Proof.Machine

section
variable {s : State} {p : PortId} {page : LP}

/-! ### The watch list of a port that serves a request -/

/-- The watch list and the request in service are fields apart. -/
theorem setWatches_serving (watches : List LP) (r : Request) (session : Option Slot) (stage : Stage) :
    setWatches p watches (s.serving p r session stage) = (setWatches p watches s).serving p r session stage := by
  rw [setWatches, setWatches, State.serving, State.serving, State.setPort_port_self, State.setPort_port_self,
    State.setPort_setPort, State.setPort_setPort]
  rfl

/-- A port is free whatever it watches. -/
theorem State.PortFree.setWatches (hp : s.PortFree p) (watches : List LP) : (setWatches p watches s).PortFree p := by
  have hport : (Machine.setWatches p watches s).port p = { s.port p with watches := watches } := State.setPort_port_self ..
  refine ⟨hport ▸ hp.ready, hport ▸ hp.wire, hport ▸ hp.credit, hport ▸ hp.queue, hport ▸ hp.service, fun q => ?_⟩
  rw [Machine.setWatches, State.setPort_port]
  split
  · next hq => exact hq ▸ hp.others q
  · exact hp.others q

/-- The event of a request that replaces the watch list of its port and is answered. -/
theorem sendRequest_watches {r : Request} {a : Answer} {watches : List LP} (hp : s.PortFree p)
    (hw : r.op.wellFormed = true)
    (h : serve p r.op (s.serving p r none .atOnce) = respond p a (setWatches p watches (s.serving p r none .atOnce))) :
    sendRequest p r s = (setWatches p watches s).answered p r a := by
  rw [sendRequest_of_free hp hw, h, setWatches_serving, respond_serving,
    settleUpTo_of_queueLaw (answered_queueLaw (hp.setWatches watches) r a)]

theorem serving_watches (r : Request) (session : Option Slot) (stage : Stage) :
    ((s.serving p r session stage).port p).watches = (s.port p).watches := by
  rw [State.serving, State.setPort_port_self]
  rfl

/-! ### The cases of the two requests -/

theorem serveWatch_held (h : page ∈ (s.port p).watches) :
    serveWatch p page s = respond p (.watched (s.port p).watches.length) s := if_pos (List.contains_iff_mem.mpr h)

theorem serveWatch_new (h : page ∉ (s.port p).watches) (hroom : (s.port p).watches.length < 16) :
    serveWatch p page s =
      respond p (.watched ((s.port p).watches.length + 1)) (setWatches p ((s.port p).watches ++ [page]) s) :=
  (if_neg (mt List.contains_iff_mem.mp h)).trans (if_pos hroom)

theorem serveWatch_full (h : page ∉ (s.port p).watches) (hfull : 16 ≤ (s.port p).watches.length) :
    serveWatch p page s = respond p .limit s :=
  (if_neg (mt List.contains_iff_mem.mp h)).trans (if_neg (Nat.not_lt.mpr hfull))

/-- An UNWATCH takes the entry out from between those before and those behind it. -/
theorem serveUnwatch_held {before after : List LP} (h : (s.port p).watches = before ++ page :: after)
    (hfirst : page ∉ before) : serveUnwatch p page s =
      respond p (.watched (before.length + after.length)) (setWatches p (before ++ after) s) := by
  have herase : (s.port p).watches.erase page = before ++ after := by
    rw [h, List.erase_append_right _ hfirst, List.erase_cons_head]
  have hheld : (s.port p).watches.contains page = true := by simp [h]
  rw [serveUnwatch, if_pos hheld, herase, List.length_append]

theorem serveUnwatch_unheld (h : page ∉ (s.port p).watches) : serveUnwatch p page s = respond p .notWatched s :=
  if_neg (mt List.contains_iff_mem.mp h)

end

/-- Settles O21: the page is in the list, or there is room for it, or there is none; each case is one answer. -/
theorem watchAddsPage : Obligations.WatchAddsPage := by
  intro p tag page s hp r watches
  have hwatches : ((s.serving p r none .atOnce).port p).watches = watches := serving_watches r none .atOnce
  refine ⟨fun hheld => ?_, fun hnew hroom => ?_, fun hnew hfull => ?_⟩
  · have hserve := serveWatch_held (hwatches ▸ hheld)
    rw [hwatches] at hserve
    exact congrArg Host.Outcome.next (sendRequest_answered hp rfl hserve)
  · have hserve := serveWatch_new (hwatches ▸ hnew) (hwatches ▸ hroom)
    rw [hwatches] at hserve
    exact congrArg Host.Outcome.next (sendRequest_watches hp rfl hserve)
  · exact congrArg Host.Outcome.next
      (sendRequest_answered hp rfl (serveWatch_full (hwatches ▸ hnew) (hwatches ▸ hfull)))

/-- Settles O22: the entry leaves the list of the port that serves the request, or there is none and one answer is all. -/
theorem unwatchRemovesPage : Obligations.UnwatchRemovesPage := by
  intro p tag page s hp r
  have hwatches : ((s.serving p r none .atOnce).port p).watches = (s.port p).watches := serving_watches r none .atOnce
  refine ⟨fun before after hlist hfirst => ?_, fun hnone => ?_⟩
  · exact congrArg Host.Outcome.next
      (sendRequest_watches hp rfl (serveUnwatch_held (hwatches.trans hlist) hfirst))
  · exact congrArg Host.Outcome.next (sendRequest_answered hp rfl (serveUnwatch_unheld (hwatches ▸ hnone)))

/-- The settings record of a device reset on the wire (R154, R179, R180). -/
theorem reset_settings_bytes : Settings.reset.bytes =
    [0x14, 0x00, 0x03, 0xF4, 0x01, 0x02, 0x02, 0x02, 0x02, 0x03, 0x03, 0x03, 0x03] := by decide

/-- Settles O23: the service of the request is one answer that reads the settings, and the reset record has its bytes. -/
theorem getConfigReportsSettings : Obligations.GetConfigReportsSettings :=
  ⟨fun _ _ _ hp => congrArg Host.Outcome.next (sendRequest_answered hp rfl rfl), reset_settings_bytes⟩

end Sys2Proof.Machine
end

-- ==== The ATTN law ====
section
/-! PROOFS. An ATTN line follows its port's two queues and the masks: an edit that touches one of them re-evaluates the line,
any other leaves all of them (R157). -/

namespace Sys2Proof.Machine

/-- The ATTN line of a port's record stands as R157 has it. -/
def PortRec.AttnRight (r : PortRec) (settings : Settings) (p : PortId) : Prop := r.attn = attnWanted settings p r

theorem attnWanted_iff (settings : Settings) (p : PortId) (r : PortRec) : attnWanted settings p r = true ↔
    (settings.respMask[p] = true ∧ r.responses ≠ []) ∨ (settings.noteMask[p] = true ∧ r.notices ≠ []) := by
  simp [attnWanted]

/-- The ATTN law says of every port that its line stands as the re-evaluation would leave it. -/
theorem attnLaw_iff (s : State) : s.AttnLaw ↔ ∀ p, (s.port p).AttnRight s.settings p :=
  forall_congr' fun p => by rw [← attnWanted_iff]; exact Bool.eq_iff_iff.symm

/-- A line just re-evaluated is right. -/
theorem evalAttn_attnRight (r : PortRec) (settings : Settings) (p : PortId) : (r.evalAttn settings p).AttnRight settings p :=
  rfl

section
variable {s t : State}

theorem State.AttnLaw.setPort (hs : s.AttnLaw) {p : PortId} {r : PortRec} (hr : r.AttnRight s.settings p) :
    (s.setPort p r).AttnLaw := by
  refine (attnLaw_iff _).mpr fun q => ?_
  rw [State.setPort_port]
  split
  · next hq => exact hq ▸ hr
  · exact (attnLaw_iff s).mp hs q

/-- A change of a port that leaves its line and its two queues keeps the law. -/
theorem State.AttnLaw.setPort_same (hs : s.AttnLaw) {p : PortId} {r : PortRec} (ha : r.attn = (s.port p).attn := by rfl)
    (hr : r.responses = (s.port p).responses := by rfl) (hn : r.notices = (s.port p).notices := by rfl) :
    (s.setPort p r).AttnLaw := hs.setPort (by
  rw [PortRec.AttnRight, attnWanted, ha, hr, hn]
  exact (attnLaw_iff s).mp hs p)

theorem evalAllAttn_attnLaw (s : State) : (evalAllAttn s).AttnLaw := (attnLaw_iff _).mpr fun q => by
  rw [evalAllAttn_port, (evalAllAttn_tables s).1]
  exact evalAttn_attnRight ..

/-- Every edit keeps the ATTN law: one that touches a queue or the masks re-evaluates the line, and a notice dropped at a full
queue changes neither. -/
theorem Edit.attnLaw (h : Edit s t) (hs : s.AttnLaw) : t.AttnLaw := by
  cases h with
  | notice p body =>
    simp only [queueNotice]
    split
    · exact hs.setPort (evalAttn_attnRight ..)
    · exact hs.setPort_same
  | respond p a =>
    simp only [Machine.respond]
    split
    · exact hs
    · exact hs.setPort (evalAttn_attnRight ..)
  | service p session stage =>
    simp only [setService]
    split
    · exact hs
    · exact hs.setPort_same
  | discard p cause => exact hs.setPort_same
  | take p r rest hq hn => exact hs.setPort_same
  | accept p r hc => exact hs.setPort_same
  | fetch p =>
    simp only [completeFetch]
    split
    · exact hs
    · exact hs.setPort (evalAttn_attnRight ..)
  | note p => exact hs.setPort (evalAttn_attnRight ..)
  | pstat p => exact hs.setPort_same
  | wire p w out => exact hs.setPort_same
  | watch p page hw hl => exact hs.setPort_same
  | unwatch p page => exact hs.setPort_same
  | clear p => exact hs.setPort (evalAttn_attnRight ..)
  | configure record timer hr hf => exact evalAllAttn_attnLaw _
  | allocate _ state owner pf hst ha =>
    simp only [Machine.allocate] at ha
    split at ha
    · cases ha
    · cases ha
      exact hs
  | _ => exact hs

theorem sweepEnded_attnLaw (hs : s.AttnLaw) : (sweepEnded s).AttnLaw := fun q => by
  rw [sweepEnded_port]
  exact hs q

theorem resetFrom_attnLaw (s : State) : s.resetFrom.AttnLaw := fun q => by
  rw [resetFrom_port]
  simp [PortRec.reset]

end

/-- Settles O52: the law is kept edit by edit, by the two ends of the sweep and by a device reset. -/
theorem stepKeepsAttn : Obligations.StepKeepsAttn := fun _ _ hs hstep =>
  step_keeps (fun _ _ => Edit.attnLaw) (fun _ => id) (fun _ => sweepEnded_attnLaw) (fun s _ => resetFrom_attnLaw s)
    (fun _ _ => id) hstep hs

end Sys2Proof.Machine
end

-- ==== Credits and the queues of requests ====
section
/-! PROOFS. Credits follow edit by edit (R164). That no request is left untaken follows event by event: no request changes a
queue of requests as it is served, so what follows an event empties the queues of the ports with none in service. -/

namespace Sys2Proof.Machine

-- The proofs of this section are elaborated one after another: side by side they exceed the memory limit of the check.
set_option Elab.async false

/-! ### The credit law -/

section
variable {s t : State}

theorem State.CreditLaw.setPort (hs : s.CreditLaw) {p : PortId} {r : PortRec} (hr : r.CreditLaw) :
    (s.setPort p r).CreditLaw := fun q => by
  rw [State.setPort_port]
  split
  · exact hr
  · exact hs q

/-- Notices leave what the credit law counts. -/
theorem State.CreditLaw.of_told (hs : s.CreditLaw) (h : ∀ q, (s.port q).Told (t.port q)) : t.CreditLaw := fun q => by
  rw [PortRec.CreditLaw, (h q).credits, (h q).requests, (h q).inService, (h q).responses]
  exact hs q

/-- Every edit keeps the credit law: a request moves from the queue into service and from there to the responses, and a credit
is spent for one that joins the queue and returned for a response fetched. -/
theorem Edit.creditLaw (h : Edit s t) (hs : s.CreditLaw) : t.CreditLaw := by
  cases h with
  | notice p body => exact hs.of_told (queueNotice_background s p body).ports
  | respond p a =>
    have hp := hs p
    simp only [Machine.respond]
    split
    · exact hs
    · next hserv =>
      refine hs.setPort ?_
      simp only [PortRec.CreditLaw, PortRec.evalAttn, hserv, List.length_append, List.length_singleton, Option.toList_some,
        Option.toList_none, List.length_nil] at hp ⊢
      omega
  | service p session stage =>
    have hp := hs p
    simp only [setService]
    split
    · exact hs
    · next hserv =>
      refine hs.setPort ?_
      simp only [PortRec.CreditLaw, hserv, Option.toList_some, List.length_singleton] at hp ⊢
      exact hp
  | discard p cause => exact hs.setPort (hs p)
  | take p r rest hq hn =>
    have hp := hs p
    refine hs.setPort ?_
    simp only [PortRec.CreditLaw, hq, hn, List.length_cons, Option.toList_some, Option.toList_none, List.length_nil] at hp ⊢
    omega
  | accept p r hc =>
    have hp := hs p
    refine hs.setPort ?_
    simp only [PortRec.CreditLaw, List.length_append, List.length_singleton] at hp ⊢
    omega
  | fetch p =>
    have hp := hs p
    simp only [completeFetch]
    split
    · exact hs
    · next hr =>
      refine hs.setPort ?_
      simp only [PortRec.CreditLaw, PortRec.evalAttn, hr, List.length_cons] at hp ⊢
      omega
  | note p => exact hs.setPort (hs p)
  | pstat p => exact hs.setPort (hs p)
  | wire p w out => exact hs.setPort (hs p)
  | watch p page hw hl => exact hs.setPort (hs p)
  | unwatch p page => exact hs.setPort (hs p)
  | clear p => exact hs.setPort rfl
  | configure record timer hr hf =>
    intro q
    rw [evalAllAttn_port]
    exact hs q
  | allocate _ state owner pf hst ha =>
    simp only [Machine.allocate] at ha
    split at ha
    · cases ha
    · cases ha
      exact hs
  | _ => exact hs

theorem sweepEnded_creditLaw (hs : s.CreditLaw) : (sweepEnded s).CreditLaw := fun q => by
  rw [sweepEnded_port]
  exact hs q

theorem resetFrom_creditLaw (s : State) : s.resetFrom.CreditLaw := fun q => by
  rw [resetFrom_port]
  rfl

end

/-! ### What serving a request leaves of the queues -/

/-- The requests that wait, port by port. -/
def State.requestQueues (s : State) : PortId → List Request := fun p => (s.port p).requests

section
variable {s t : State}

theorem State.Calm.requestQueues (h : s.Calm t) : t.requestQueues = s.requestQueues :=
  funext fun q => (h.others.ports q id).2.1

theorem State.Background.requestQueues (h : s.Background t) : t.requestQueues = s.requestQueues :=
  funext fun q => (h.ports q).requests

theorem State.Ends.requestQueues {ended : Slot → Prop} (h : s.Ends t ended) : t.requestQueues = s.requestQueues :=
  funext fun q => (h.others.ports q id).2.1

theorem State.SameQueues.requestQueues (h : s.SameQueues t) : t.requestQueues = s.requestQueues := funext fun q => (h q).1

/-- A port's record is replaced by one with the same queue of requests. -/
theorem State.setPort_requestQueues {p : PortId} {r : PortRec} (h : r.requests = (s.port p).requests) :
    (s.setPort p r).requestQueues = s.requestQueues := funext fun q => by
  rw [State.requestQueues, State.setPort_port]
  split
  · next hq => rw [hq, h, State.requestQueues]
  · rfl

end

section
variable (s : State)

@[simp] theorem State.setSession_requestQueues (slot : Slot) (r : SessionRec) :
    (s.setSession slot r).requestQueues = s.requestQueues := rfl
@[simp] theorem State.setGroup_requestQueues (g : GroupIx) (r : GroupRec) :
    (s.setGroup g r).requestQueues = s.requestQueues := rfl

@[simp] theorem modifySession_requestQueues (slot : Slot) (f : SessionRec → SessionRec) :
    (modifySession slot f s).requestQueues = s.requestQueues := rfl

@[simp] theorem pinFrame_requestQueues (pf : PF) : (pinFrame pf s).requestQueues = s.requestQueues := rfl

@[simp] theorem respond_requestQueues (p : PortId) (a : Answer) : (respond p a s).requestQueues = s.requestQueues :=
  (respond_calm s p a).requestQueues

@[simp] theorem setService_requestQueues (p : PortId) (session : Option Slot) (stage : Stage) :
    (setService p session stage s).requestQueues = s.requestQueues := (setService_calm s p session stage).requestQueues

@[simp] theorem queueNotice_requestQueues (p : PortId) (body : NoticeBody) :
    (queueNotice p body s).requestQueues = s.requestQueues := (queueNotice_background s p body).requestQueues

@[simp] theorem startRelocation_requestQueues : (startRelocation s).requestQueues = s.requestQueues :=
  (startRelocation_background s).requestQueues

@[simp] theorem abortSession_requestQueues (slot : Slot) (reason : AbortReason) :
    (abortSession slot reason s).requestQueues = s.requestQueues := (abortSession_ends s slot reason).requestQueues

@[simp] theorem applyPages_requestQueues (members : List Slot) : (applyPages members s).requestQueues = s.requestQueues :=
  (applyPages_background ..).requestQueues

@[simp] theorem endApplied_requestQueues (slot : Slot) : (endApplied slot s).requestQueues = s.requestQueues :=
  (endApplied_ends s slot).requestQueues

@[simp] theorem setWatches_requestQueues (p : PortId) (watches : List LP) :
    (setWatches p watches s).requestQueues = s.requestQueues := State.setPort_requestQueues rfl

theorem evalAllAttn_requestQueues : (evalAllAttn s).requestQueues = s.requestQueues := funext fun q => by
  rw [State.requestQueues, evalAllAttn_port]
  rfl

@[simp] theorem resolveGroup_requestQueues (g : GroupIx) (close : Option PortId) :
    (resolveGroup g close s).requestQueues = s.requestQueues := by
  have hmembers : ∀ (l : List Slot) (t : State), (l.foldl (fun u m => endMember m u) t).requestQueues = t.requestQueues :=
    fun l t => (endMembers_sameQueues l t).requestQueues
  simp only [resolveGroup]
  split
  · split <;> simp
  · split <;> simp [hmembers]

@[simp] theorem serveOpen_requestQueues (p : PortId) (tag : Byte) (budget : BitVec 16) :
    (serveOpen p tag budget s).requestQueues = s.requestQueues := by
  simp only [serveOpen]
  split
  · simp
  · split
    · simp
    · split
      · simp
      · split
        · simp
        · split <;> simp [joinGroup]

@[simp] theorem captureRead_requestQueues (p : PortId) (session : Option Slot) (address length : Nat) :
    (captureRead p session address length s).requestQueues = s.requestQueues := by
  have hpins : ∀ pfs : List PF, (pfs.foldl (fun t pf => pinFrame pf t) s).requestQueues = s.requestQueues := fun pfs =>
    foldl_keeps State.requestQueues _ (fun t pf => pinFrame_requestQueues t pf) pfs s
  simp only [captureRead]
  split <;> simp [hpins]

@[simp] theorem firstWrite_requestQueues (p : PortId) (slot : Slot) (page : LP) (address : BitVec 16) (wait : Bool)
    (data : List Byte) : (firstWrite p slot page address wait data s).requestQueues = s.requestQueues := by
  have hwaits : ∀ waits, ({ s with waits := waits } : State).requestQueues = s.requestQueues := fun _ => rfl
  simp only [firstWrite]
  split
  · simp
  · split
    · split
      · simp
      · split <;> simp [hwaits]
    · split
      · simp
      · next h => simp [(takeClaim_background s h).1.requestQueues]

/-- No request changes a queue of requests as it is served. -/
@[simp] theorem serve_requestQueues (p : PortId) (op : RequestOp) : (serve p op s).requestQueues = s.requestQueues := by
  cases op with
  | openSession group budget => simp [serve]
  | abort handle =>
    simp only [serve, serveAbort]
    split <;> simp
  | guard handle page version =>
    simp only [serve, serveGuard]
    split
    · simp
    · split <;> simp
  | read handle address length =>
    simp only [serve, serveRead]
    split
    · simp
    · split <;> simp
  | write handle address flags data =>
    simp only [serve, serveWrite]
    split
    · simp
    · split
      · simp
      · split
        · simp
        · split <;> simp
  | commit handle =>
    simp only [serve, serveCommit]
    split
    · simp
    · split
      · simp
      · split
        · split <;> simp
        · split <;> simp
  | close group =>
    simp only [serve, serveClose]
    split
    · simp
    · split
      · simp
      · simp
      · split <;> simp
  | pageInfo page => simp [serve, servePageInfo]
  | poolInfo => simp [serve, servePoolInfo]
  | sessInfo slot =>
    simp only [serve, serveSessInfo]
    split <;> simp
  | watch page =>
    simp only [serve, serveWatch]
    split
    · simp
    · split <;> simp
  | unwatch page =>
    simp only [serve, serveUnwatch]
    split <;> simp
  | setConfig record =>
    simp only [serve, serveSetConfig]
    split
    · simp
    · split
      · simp
      · exact (respond_requestQueues ..).trans (evalAllAttn_requestQueues _)
  | getConfig => simp [serve, serveGetConfig]
  | logRead seq =>
    simp only [serve, serveLogRead]
    split <;> simp

end

/-! ### What follows an event -/

section
variable {s t : State}

theorem queued_congr (h : t.requestQueues = s.requestQueues) : t.queued = s.queued := by
  have hq : ∀ q, (t.port q).requests = (s.port q).requests := congrFun h
  simp only [State.queued, hq]

/-- A port that takes its head request into service leaves one request fewer in the queues. -/
theorem serveHead_queued {p : PortId} (hp : (s.port p).waiting = true) : (serveHead p s).queued + 1 = s.queued := by
  cases hr : (s.port p).requests with
  | nil => simp [PortRec.waiting, hr] at hp
  | cons r rest =>
    have hcount := queued_setPort (s := s) p { s.port p with requests := rest, inService := some ⟨r, none, .atOnce⟩ }
    simp only [hr, List.length_cons] at hcount
    simp only [serveHead, hr, takeIntoService, State.setPort_setPort, State.setPort_port_self,
      queued_congr (serve_requestQueues ..)]
    omega

theorem queueLaw_of_queued_eq_zero (h : s.queued = 0) : s.QueueLaw := fun q => by
  have hq : (s.port q).requests.length = 0 := by
    refine List.sum_eq_zero_iff.mp h _ (List.mem_map_of_mem (List.mem_finRange q))
  rw [PortRec.waiting, List.eq_nil_of_length_eq_zero hq, List.isEmpty_nil, Bool.not_true, Bool.and_false]

theorem queueLaw_of_waitingPorts_eq_nil (h : s.waitingPorts = []) : s.QueueLaw := fun q =>
  Bool.eq_false_iff.mpr (List.filter_eq_nil_iff.mp h q (List.mem_finRange q))

theorem waiting_of_mem_waitingPorts {p : PortId} (h : p ∈ s.waitingPorts) : (s.port p).waiting = true :=
  (List.mem_filter.mp h).2

/-- As many turns as there are requests leave no port with a request to take. -/
theorem settleUpTo_queueLaw {n : Nat} (h : s.queued ≤ n) : (settleUpTo n s).QueueLaw := by
  induction n generalizing s with
  | zero => exact queueLaw_of_queued_eq_zero (Nat.le_zero.mp h)
  | succ n ih =>
    rw [settleUpTo]
    split
    · next hnone => exact queueLaw_of_waitingPorts_eq_nil hnone
    · next p hp =>
      have := serveHead_queued (waiting_of_mem_waitingPorts (s := s) (p := p) (by simp [hp]))
      exact ih (by omega)
    · next p q rest hp =>
      have hlt : Config.portDraw s.draws % (rest.length + 2) < (p :: q :: rest).length := Nat.mod_lt _ (Nat.succ_pos _)
      have hmem : (p :: q :: rest).getD (Config.portDraw s.draws % (rest.length + 2)) p ∈ s.waitingPorts := by
        rw [hp, List.getD_eq_getElem _ _ hlt]
        exact List.getElem_mem hlt
      have := serveHead_queued (s := { s with draws := s.draws + 1 }) (waiting_of_mem_waitingPorts hmem)
      have hdraws : State.queued { s with draws := s.draws + 1 } = s.queued := rfl
      exact ih (by omega)

theorem settle_queueLaw (s : State) : (settle s).QueueLaw := settleUpTo_queueLaw le_rfl

theorem endEvent_queueLaw (s : State) : (endEvent s).QueueLaw := settle_queueLaw _

/-! ### The queue law over every command -/

/-- A port's record is replaced by one with the same queue of requests and the same request in service. -/
theorem State.QueueLaw.setPort (hs : s.QueueLaw) {p : PortId} {r : PortRec}
    (hq : r.requests = (s.port p).requests := by rfl) (hi : r.inService = (s.port p).inService := by rfl) :
    (s.setPort p r).QueueLaw := fun q => by
  rw [State.setPort_port]
  split
  · rw [PortRec.waiting, hq, hi]
    exact hs p
  · exact hs q

theorem State.QueueLaw.of_ports (hs : s.QueueLaw) (h : t.ports = s.ports) : t.QueueLaw := fun q => by
  rw [State.port, h]
  exact hs q

theorem State.QueueLaw.releaseWire (hs : s.QueueLaw) (p : PortId) (code : Byte) (n : Nat)
    {judge : Bool → Nat → State → State} (hj : ∀ held len t, t.QueueLaw → (judge held len t).QueueLaw) :
    (releaseWire p code n judge s).QueueLaw := by
  simp only [Machine.releaseWire]
  split
  · exact hs.setPort
  · exact hj _ _ _ hs.setPort

/-- A frame with a check byte is judged by its own rule. -/
theorem State.QueueLaw.checkedRelease (hs : s.QueueLaw) (p : PortId) (code : Byte) (sent : List Byte)
    {act : Bool → Nat → State → State} (ha : ∀ held len t, t.QueueLaw → (act held len t).QueueLaw) :
    (Machine.releaseWire p code sent.length (fun held len => checkedFrame p sent (act held len)) s).QueueLaw := by
  refine hs.releaseWire p code _ fun held len t ht => ?_
  simp only [checkedFrame]
  split
  · exact ht
  · split
    · exact ha held len t ht
    · exact ht.setPort

theorem State.QueueLaw.judged (hs : s.QueueLaw) (p : PortId) (judgement : Except DiscardCause Request) :
    (judged p judgement s).QueueLaw := by
  simp only [Machine.judged]
  split
  · exact hs.setPort
  · split
    · exact hs.setPort
    · split
      · exact hs.setPort
      · exact settle_queueLaw _

theorem State.QueueLaw.sendRequest (hs : s.QueueLaw) (p : PortId) (r : Request) : (sendRequest p r s).QueueLaw :=
  hs.releaseWire _ _ _ fun _ _ _ ht => ht.judged _ _

theorem State.QueueLaw.completeFetch (hs : s.QueueLaw) (p : PortId) : (completeFetch p s).QueueLaw := by
  simp only [Machine.completeFetch]
  split
  · exact hs
  · exact hs.setPort

theorem State.QueueLaw.codeFrame (hs : s.QueueLaw) (p : PortId) (code : Byte) : (codeFrame p code s).QueueLaw := by
  simp only [Machine.codeFrame]
  split
  · exact hs
  · exact hs.setPort
  · exact hs.setPort
  · exact hs.setPort

theorem resetPort_queueLaw (hs : s.QueueLaw) (p : PortId) : (resetPort p s).QueueLaw := by
  simp only [resetPort]
  split
  · exact endEvent_queueLaw _
  · exact hs

theorem resetFrom_queueLaw (s : State) : s.resetFrom.QueueLaw := fun q => by
  rw [resetFrom_port]
  rfl

/-- Every command keeps the queue law: its event ends with the taking of requests, or it leaves every queue of requests and
what is in service. -/
theorem State.QueueLaw.exec (hs : s.QueueLaw) (c : Instr) : ∃ t, exec c s = .next t ∧ t.QueueLaw := by
  cases c with
  | deviceReset => exact ⟨_, exec_deviceReset s, resetFrom_queueLaw s⟩
  | initializationSweep => exact ⟨_, rfl, by split <;> exact hs⟩
  | sweepEnd =>
    refine ⟨_, rfl, ?_⟩
    split
    · exact hs
    · exact fun q => by rw [sweepEnded_port]; exact hs q
    · exact hs
  | tick => exact ⟨_, rfl, endEvent_queueLaw _⟩
  | expiry => exact ⟨_, rfl, endEvent_queueLaw _⟩
  | request port sent => exact ⟨_, rfl, hs.releaseWire _ _ _ fun _ _ _ ht => ht.judged _ _⟩
  | fetch port sent =>
    refine ⟨_, rfl, hs.checkedRelease port _ sent fun held len t ht => ?_⟩
    split
    · exact ht.completeFetch port
    · exact ht
  | note port sent =>
    refine ⟨_, rfl, hs.checkedRelease port _ sent fun held len t ht => ?_⟩
    split
    · exact ht.setPort
    · exact ht
  | pstat port sent =>
    refine ⟨_, rfl, hs.checkedRelease port _ sent fun held len t ht => ?_⟩
    split
    · exact ht.setPort
    · exact ht
  | preset port sent => exact ⟨_, rfl, hs.checkedRelease port _ sent fun _ _ _ ht => resetPort_queueLaw ht port⟩
  | unknownFrameCode port code sent =>
    refine ⟨_, rfl, ?_⟩
    split
    · exact hs
    · exact hs.releaseWire _ _ _ fun _ _ _ ht => ht.setPort
  | openSession port tag group budget => exact ⟨_, rfl, hs.sendRequest _ _⟩
  | abort port tag handle => exact ⟨_, rfl, hs.sendRequest _ _⟩
  | guard port tag handle page version => exact ⟨_, rfl, hs.sendRequest _ _⟩
  | read port tag handle address length => exact ⟨_, rfl, hs.sendRequest _ _⟩
  | write port tag handle address flags data => exact ⟨_, rfl, hs.sendRequest _ _⟩
  | commit port tag handle => exact ⟨_, rfl, hs.sendRequest _ _⟩
  | close port tag group => exact ⟨_, rfl, hs.sendRequest _ _⟩
  | pageInfo port tag page => exact ⟨_, rfl, hs.sendRequest _ _⟩
  | poolInfo port tag => exact ⟨_, rfl, hs.sendRequest _ _⟩
  | sessInfo port tag slot => exact ⟨_, rfl, hs.sendRequest _ _⟩
  | watch port tag page => exact ⟨_, rfl, hs.sendRequest _ _⟩
  | unwatch port tag page => exact ⟨_, rfl, hs.sendRequest _ _⟩
  | setConfig port tag record => exact ⟨_, rfl, hs.sendRequest _ _⟩
  | getConfig port tag => exact ⟨_, rfl, hs.sendRequest _ _⟩
  | logRead port tag seq => exact ⟨_, rfl, hs.sendRequest _ _⟩
  | storeArbiterGrant flips =>
    refine ⟨_, rfl, ?_⟩
    simp only [grant]
    split
    · exact hs
    · exact endEvent_queueLaw _
  | readCompletion port =>
    refine ⟨_, rfl, ?_⟩
    split
    · exact endEvent_queueLaw _
    · exact hs
  | writePlacementEnd port =>
    refine ⟨_, rfl, ?_⟩
    split
    · exact settle_queueLaw _
    · exact hs
  | jobCompletion =>
    refine ⟨_, rfl, ?_⟩
    split
    · exact endEvent_queueLaw _
    · exact endEvent_queueLaw _
    · exact hs
  | relocationSwitch =>
    refine ⟨_, rfl, ?_⟩
    split
    · exact endEvent_queueLaw _
    · exact hs
  | relocationStart => exact ⟨_, rfl, hs.of_ports (startRelocation_ports s)⟩
  | scrubVisit =>
    refine ⟨_, rfl, ?_⟩
    split
    · exact hs.of_ports (visitFrame_frame s).2
    · exact hs
  | scrubReadEnd =>
    refine ⟨_, rfl, ?_⟩
    split
    · exact hs
    · split
      · exact hs
      · exact endEvent_queueLaw _
  | frameCodeByteEnd port part =>
    refine ⟨_, rfl, ?_⟩
    cases part with
    | csnAsserted => exact hs.setPort
    | codeByteEnd code => exact hs.codeFrame port code

theorem step_queueLaw (h : step s = .next t) (hs : s.QueueLaw) : t.QueueLaw := by
  simp only [step] at h
  split at h
  · cases h
    exact hs
  · next c rest _ =>
    obtain ⟨u, hu, hlaw⟩ := State.QueueLaw.exec (s := { s with pending := rest }) hs c
    rw [hu] at h
    cases h
    exact hlaw

end

/-- Settles O51: the credits are kept edit by edit; the queues by every command, as what follows an event takes each request
that can be taken. -/
theorem stepKeepsCreditsAndQueues : Obligations.StepKeepsCreditsAndQueues := fun _ _ hstep =>
  ⟨step_keeps (fun _ _ => Edit.creditLaw) (fun _ => id) (fun _ => sweepEnded_creditLaw) (fun s _ => resetFrom_creditLaw s)
    (fun _ _ => id) hstep, step_queueLaw hstep⟩

end Sys2Proof.Machine
end

-- ==== Requests on the wire ====
section
/-! PROOFS. The bytes of a REQUEST frame: what its parameters spell, and how the checks of its shape and its CRC judge it
(R162, R173 to R175). -/

namespace Sys2Proof

/-! ### The parameters of a request -/

theorem le16_bytes16 (v : BitVec 16) : le16 (v.extractLsb' 0 8) (v.extractLsb' 8 8) = v :=
  (BitVec.extractLsb'_append_extractLsb'_eq_extractLsb' rfl).trans BitVec.extractLsb'_eq_self

/-- A settings record is read back from its thirteen bytes (R179). -/
theorem parseOp_settings (record : ConfigRecord) : parseOp 0x0D#8 record.bytes = some (.setConfig record) := by
  obtain ⟨period, threshold, budget, ⟨⟨quotas⟩, hquotas⟩, ⟨⟨ports⟩, hports⟩⟩ := record
  match quotas, ports, hquotas, hports with
  | [q0, q1, q2, q3], [m0, m1, m2, m3], _, _ =>
    show some (RequestOp.setConfig ⟨le16 _ _, _, le16 _ _, _, _⟩) = _
    rw [le16_bytes16, le16_bytes16]

theorem write_length_le {handle : Handle} {address : BitVec 16} {flags : Byte} {data : List Byte}
    (hw : (RequestOp.write handle address flags data).wellFormed = true) : data.length ≤ Config.writeMax :=
  of_decide_eq_true hw

/-- A WRITE of at most 64 bytes is read back: its length byte holds the number of its data bytes. -/
theorem parseOp_write (handle : Handle) (address : BitVec 16) (flags : Byte) {data : List Byte}
    (hd : data.length ≤ Config.writeMax) :
    parseOp 0x05#8 (RequestOp.write handle address flags data).params = some (.write handle address flags data) := by
  have hlen : data.length = (BitVec.ofNat 8 data.length).toNat := (Nat.mod_eq_of_lt (hd.trans_lt (by decide))).symm
  show (if data.length = (BitVec.ofNat 8 data.length).toNat ∧ data.length ≤ Config.writeMax then
    some (RequestOp.write handle (le16 _ _) flags data) else none) = _
  rw [if_pos ⟨hlen, hd⟩, le16_bytes16]

/-- The parameters of a well-formed request spell that request (R174). -/
theorem parseOp_params {op : RequestOp} (hw : op.wellFormed = true) : parseOp op.code op.params = some op := by
  cases op with
  | openSession group budget => exact congrArg (fun b => some (RequestOp.openSession group b)) (le16_bytes16 budget)
  | guard handle page version => exact congrArg (fun v => some (RequestOp.guard handle page v)) (le16_bytes16 version)
  | read handle address length =>
    exact congrArg₂ (fun a l => some (RequestOp.read handle a l)) (le16_bytes16 address) (le16_bytes16 length)
  | write handle address flags data => exact parseOp_write handle address flags (write_length_le hw)
  | setConfig record => exact parseOp_settings record
  | logRead seq => exact congrArg (fun v => some (RequestOp.logRead v)) (le16_bytes16 seq)
  | _ => rfl

/-- The parameters of a well-formed request are at most 69 bytes (R162). -/
theorem params_length_le {op : RequestOp} (hw : op.wellFormed = true) : op.params.length ≤ Config.paramMax := by
  cases op with
  | write handle address flags data =>
    have hdata : data.length ≤ 64 := write_length_le hw
    simp only [RequestOp.params, bytes16, Config.paramMax, List.length_cons, List.length_append, List.length_nil]
    omega
  | _ => simp [RequestOp.params, bytes16, ConfigRecord.bytes, Config.paramMax]

/-! ### The checks on a frame's bytes -/

/-- The judgement of a frame that holds its first three bytes: truncated, the wrong shape, the wrong CRC, or a request. -/
theorem judgeRequest_cons (code tag plen : Byte) (rest : List Byte) : judgeRequest (code :: tag :: plen :: rest) =
    if rest.length < plen.toNat + 1 then .error .truncated
    else match parseOp code (rest.take plen.toNat) with
      | none => .error .length
      | some op =>
        if rest.length ≠ plen.toNat + 1 then .error .length
        else if rest.drop plen.toNat = [crc8 (code :: tag :: plen :: rest.take plen.toNat)] then .ok ⟨tag, op⟩
        else .error .crc := rfl

/-- A frame of the length that its length byte announces is judged by its CRC alone, once its parameters spell a request. -/
theorem judgeRequest_append {code tag plen : Byte} {params : List Byte} {op : RequestOp} (hl : params.length = plen.toNat)
    (hop : parseOp code params = some op) (check : Byte) : judgeRequest (code :: tag :: plen :: (params ++ [check])) =
      if check = crc8 (code :: tag :: plen :: params) then .ok ⟨tag, op⟩ else .error .crc := by
  rw [judgeRequest_cons, ← hl, List.take_left, List.drop_left, List.length_append, List.length_singleton,
    if_neg (Nat.lt_irrefl _), hop]
  simp

/-- The bytes of a well-formed request are judged as that request. -/
theorem judgeRequest_encodeRequest {r : Request} (hw : r.op.wellFormed = true) : judgeRequest (encodeRequest r) = .ok r := by
  have hlen : r.op.params.length = (BitVec.ofNat 8 r.op.params.length).toNat :=
    (Nat.mod_eq_of_lt ((params_length_le hw).trans_lt (by decide))).symm
  exact (judgeRequest_append hlen (parseOp_params hw) _).trans (if_pos rfl)

theorem encodeRequest_length (r : Request) : (encodeRequest r).length = r.op.params.length + 4 := by
  simp [encodeRequest, Request.body]

section
variable {sent : List Byte}

theorem exists_of_three_le (h : 3 ≤ sent.length) : ∃ code tag plen rest, sent = code :: tag :: plen :: rest :=
  match sent, h with
  | code :: tag :: plen :: rest, _ => ⟨code, tag, plen, rest, rfl⟩

/-- Check 2: the frame ends before its length byte, or before the CRC that its length byte puts last (R162). -/
theorem judgeRequest_truncated (h : sent.length < 3 ∨ sent.length < 4 + (sent.getD 2 0).toNat) :
    judgeRequest sent = .error .truncated := by
  by_cases h3 : sent.length < 3
  · match sent, h3 with
    | [], _ => rfl
    | [_], _ => rfl
    | [_, _], _ => rfl
  · obtain ⟨code, tag, plen, rest, rfl⟩ := exists_of_three_le (Nat.le_of_not_lt h3)
    have hshort : rest.length < plen.toNat + 1 := by
      have := h.resolve_left h3
      simp only [List.getD_cons_succ, List.getD_cons_zero, List.length_cons] at this
      omega
    rw [judgeRequest_cons, if_pos hshort]

/-- Check 3: the parameters spell no request, or bytes follow the place of the CRC (R162, R175). -/
theorem judgeRequest_length (hl : 4 + (sent.getD 2 0).toNat ≤ sent.length)
    (h : parseOp (sent.getD 0 0) ((sent.drop 3).take (sent.getD 2 0).toNat) = none ∨
      4 + (sent.getD 2 0).toNat < sent.length) : judgeRequest sent = .error .length := by
  obtain ⟨code, tag, plen, rest, rfl⟩ := exists_of_three_le (sent := sent) (by omega)
  simp only [List.getD_cons_succ, List.getD_cons_zero, List.length_cons, List.drop_succ_cons, List.drop_zero] at hl h
  rw [judgeRequest_cons, if_neg (by omega)]
  split
  · rfl
  · next hop =>
    have hlong : 4 + plen.toNat < rest.length + 1 + 1 + 1 := h.resolve_left (by rw [hop]; nofun)
    rw [if_pos (by omega)]

/-- Check 4: a frame of the right shape is judged by its last byte, the CRC of all before it (R162, R173). -/
theorem judgeRequest_crc {op : RequestOp} (hl : sent.length = 4 + (sent.getD 2 0).toNat)
    (hop : parseOp (sent.getD 0 0) ((sent.drop 3).take (sent.getD 2 0).toNat) = some op) : judgeRequest sent =
      if sent.getLast? = some (crc8 sent.dropLast) then .ok ⟨sent.getD 1 0, op⟩ else .error .crc := by
  obtain ⟨code, tag, plen, rest, rfl⟩ := exists_of_three_le (sent := sent) (by omega)
  simp only [List.getD_cons_succ, List.getD_cons_zero, List.length_cons, List.drop_succ_cons, List.drop_zero] at hl hop
  obtain ⟨params, check, rfl⟩ := (List.eq_nil_or_concat rest).resolve_left (List.ne_nil_of_length_pos (by omega))
  rw [List.concat_eq_append, List.length_append, List.length_singleton] at hl
  have hparams : params.length = plen.toNat := by omega
  rw [List.concat_eq_append, ← hparams, List.take_left] at hop
  rw [List.concat_eq_append, judgeRequest_append hparams hop, ← List.cons_append, ← List.cons_append, ← List.cons_append,
    List.getLast?_concat, List.dropLast_concat]
  simp

end

end Sys2Proof
end

-- ==== The release of a REQUEST frame ====
section
/-! PROOFS. What a port does with the judgement of a REQUEST frame that an idle wire carried, and the row of the request that
the frame's bytes spell (R162 to R164). -/

namespace Sys2Proof.Machine

section
variable {s : State} {p : PortId} {code : Byte}

/-! ### The release of a frame -/

/-- A frame that no device reset ended is judged after its bytes were shifted out. -/
theorem releaseWire_of_wireAt {status : Byte} {record : List Byte} {held : Bool}
    (h : (s.port p).wireAt code = some (status, record, held)) (n : Nat) (judge : Bool → Nat → State → State) :
    releaseWire p code n judge s = judge held record.length (endFrame p (status :: shiftedOut record n) s) := by
  rw [releaseWire, h]

theorem wireAt_of_idle (h : (s.port p).wire = .idle) (code : Byte) :
    (s.port p).wireAt code = some ((s.port p).statusByte, (s.port p).fixRecord code) := by
  rw [PortRec.wireAt, h]

/-- A frame code other than those of FETCH, NOTE and PSTAT fixes no record. -/
theorem fixRecord_of_filler (r : PortRec) (hfetch : code ≠ 0x46#8) (hnote : code ≠ 0x4E#8) (hpstat : code ≠ 0x53#8) :
    r.fixRecord code = ([], false) := by
  rw [PortRec.fixRecord, if_neg hfetch, if_neg hnote, if_neg hpstat]

theorem shiftedOut_nil (n : Nat) : shiftedOut [] n = List.replicate n 0x00#8 := by
  rw [shiftedOut, List.take_nil, List.nil_append, List.length_nil, Nat.sub_zero]

/-- The state after the end of a frame of n bytes past its code that shifted out filler alone. -/
def State.fillerOut (s : State) (p : PortId) (n : Nat) : State :=
  endFrame p ((s.port p).statusByte :: List.replicate n 0x00#8) s

theorem fillerOut_port (n : Nat) : (s.fillerOut p n).port p =
    { s.port p with wire := .idle, sdo := (s.port p).statusByte :: List.replicate n 0x00#8 } := State.setPort_port_self ..

/-- A frame without a record at an idle wire shifts out filler and is judged. -/
theorem releaseWire_of_filler (hw : (s.port p).wire = .idle) (hfetch : code ≠ 0x46#8) (hnote : code ≠ 0x4E#8)
    (hpstat : code ≠ 0x53#8) (n : Nat) (judge : Bool → Nat → State → State) :
    releaseWire p code n judge s = judge false 0 (s.fillerOut p n) := by
  have h := wireAt_of_idle hw code
  rw [fixRecord_of_filler _ hfetch hnote hpstat] at h
  rw [releaseWire_of_wireAt h, shiftedOut_nil]
  rfl

/-- A discard after filler leaves the discarded state. -/
theorem discard_fillerOut (n : Nat) (cause : DiscardCause) : discard p cause (s.fillerOut p n) = s.discarded p n cause := by
  rw [discard, fillerOut_port, State.fillerOut, endFrame, State.setPort_setPort]
  rfl

/-! ### REQUEST -/

/-- A REQUEST frame at an idle wire is judged after filler was shifted out. -/
theorem exec_request (hw : (s.port p).wire = .idle) (sent : List Byte) :
    exec (.request p sent) s = .next (judged p (judgeRequest sent) (s.fillerOut p sent.length)) :=
  congrArg Host.Outcome.next (releaseWire_of_filler hw (by decide) (by decide) (by decide) _ _)

/-- Check 1: a port that is NOT_READY discards the frame, whatever its bytes. -/
theorem judged_of_not_ready (hr : (s.port p).ready = false) (n : Nat) (judgement : Except DiscardCause Request) :
    judged p judgement (s.fillerOut p n) = s.discarded p n .notReady := by
  rw [← discard_fillerOut]
  simp [judged, fillerOut_port, hr]

/-- Checks 2 to 4: a READY port discards a frame with the cause it is judged with. -/
theorem judged_error (hr : (s.port p).ready = true) (n : Nat) (cause : DiscardCause) :
    judged p (.error cause) (s.fillerOut p n) = s.discarded p n cause := by
  rw [← discard_fillerOut]
  simp [judged, fillerOut_port, hr]

/-- Check 5: a READY port without a credit discards a request's frame. -/
theorem judged_noCredit (hr : (s.port p).ready = true) (hc : (s.port p).credits = 0) (n : Nat) (r : Request) :
    judged p (.ok r) (s.fillerOut p n) = s.discarded p n .noCredit := by
  rw [← discard_fillerOut]
  simp [judged, fillerOut_port, hr, hc]

/-- A READY port with a credit left takes a request to the tail of its queue. -/
theorem judged_accepted (hr : (s.port p).ready = true) (hc : 0 < (s.port p).credits) (n : Nat) (r : Request) :
    judged p (.ok r) (s.fillerOut p n) =
      settle (s.setPort p { (s.port p).took n with requests := (s.port p).requests ++ [r] }) := by
  have hrecord : judged p (.ok r) (s.fillerOut p n) = settle ((s.fillerOut p n).setPort p
      { (s.port p).took n with requests := (s.port p).requests ++ [r] }) := by
    simp [judged, fillerOut_port, hr, Nat.ne_of_gt hc, PortRec.took]
  rw [hrecord, State.fillerOut, endFrame, State.setPort_setPort]

/-- A request that joins a queue behind a request in service leaves no port with one to take. -/
theorem accepted_queueLaw (hs : s.QueueLaw) (hi : (s.port p).inService ≠ none) (n : Nat) (r : Request) :
    (s.setPort p { (s.port p).took n with requests := (s.port p).requests ++ [r] }).QueueLaw := fun q => by
  rw [State.setPort_port]
  split
  · exact congrArg (· && _) (Option.isNone_eq_false_iff.mpr (Option.isSome_iff_ne_none.mpr hi))
  · exact hs q

end

/-- Settles O7: the parameters spell the request again, and the CRC is that of the bytes before it. -/
theorem requestFrameRoundTrip : Obligations.RequestFrameRoundTrip := fun _ => judgeRequest_encodeRequest

/-- Settles O8: both are the release of a REQUEST frame of the same length that is judged as that request. -/
theorem requestFrameRunsItsRow : Obligations.RequestFrameRunsItsRow := fun p r s hw => by
  rw [exec_rowOf, sendRequest_of_wellFormed p hw, ← encodeRequest_length, ← judgeRequest_encodeRequest hw]
  rfl

/-- Settles O9: each check's judgement, and the discard with its cause. -/
theorem requestDiscardOrder : Obligations.RequestDiscardOrder := fun p sent s hw => by
  rw [exec_request hw]
  refine ⟨fun hr => ?_, fun hr hshort => ?_, fun hr hlong => ⟨fun hshape => ?_, fun op hop hlen => ⟨fun hcrc => ?_, ?_⟩⟩⟩
  · rw [judged_of_not_ready hr]
  · rw [judgeRequest_truncated hshort, judged_error hr]
  · rw [judgeRequest_length hlong hshape, judged_error hr]
  · rw [judgeRequest_crc hlen hop, if_neg hcrc, judged_error hr]
  · intro hcrc hcredits
    rw [judgeRequest_crc hlen hop, if_pos hcrc, judged_noCredit hr hcredits]

/-- Settles O10: the request joins the queue, and with another in service none is taken after the event. -/
theorem requestQueuedBehindService : Obligations.RequestQueuedBehindService := fun p r s hw hr hwire hc hi hs => by
  rw [exec_request hwire, judgeRequest_encodeRequest hw, encodeRequest_length, judged_accepted hr hc,
    settle_of_queueLaw (accepted_queueLaw hs hi _ r)]
  rfl

end Sys2Proof.Machine
end

-- ==== FETCH, NOTE and PSTAT ====
section
/-! PROOFS. The frames that carry a check byte, in their three cases, said once for all four: the release after the code byte
alone, the wrong check byte, and the frame's own rule. Then what a FETCH, a NOTE and a PSTAT complete (R161, R166 to R168). -/

namespace Sys2Proof.Machine

/-! ### The two ends of the frame code byte -/

section
variable (s : State) {p : PortId}

theorem exec_csnAsserted (p : PortId) : exec (.frameCodeByteEnd p .csnAsserted) s =
    .next (s.setPort p { s.port p with wire := .begun (s.port p).statusByte, sdo := [] }) := rfl

/-- At a wire that is idle or begun the code's end fixes the record, with the status byte of the frame's beginning. -/
theorem exec_codeByteEnd {status : Byte}
    (hw : (s.port p).wire = .begun status ∨ ((s.port p).wire = .idle ∧ status = (s.port p).statusByte)) (code : Byte) :
    exec (.frameCodeByteEnd p (.codeByteEnd code)) s = .next (s.setPort p
      { s.port p with
        wire := .coded status code ((s.port p).fixRecord code).1 ((s.port p).fixRecord code).2
        sdo := [status] }) := by
  refine congrArg Host.Outcome.next ?_
  rcases hw with hw | ⟨hw, rfl⟩ <;> simp only [codeFrame, hw]

theorem exec_codeByteEnd_of_disregarded (hw : (s.port p).wire = .disregarded) (code : Byte) :
    exec (.frameCodeByteEnd p (.codeByteEnd code)) s = .next s := by
  refine congrArg Host.Outcome.next ?_
  simp only [codeFrame, hw]

end

/-! ### The record that a frame code fixes -/

section
variable {r : PortRec}

theorem fixRecord_fetch {response : Response} {rest : List Response} (h : r.responses = response :: rest) :
    r.fixRecord 0x46#8 = (response.bytes, true) := by
  rw [PortRec.fixRecord, if_pos rfl, h]

theorem fixRecord_fetch_empty (h : r.responses = []) : r.fixRecord 0x46#8 = (emptyResponse, false) := by
  rw [PortRec.fixRecord, if_pos rfl, h]

theorem fixRecord_note {notice : Notice} {rest : List Notice} (h : r.notices = notice :: rest) :
    r.fixRecord 0x4E#8 = (notice.bytes, true) := by
  rw [PortRec.fixRecord, if_neg (by decide), if_pos rfl, h]

theorem fixRecord_note_empty (h : r.notices = []) : r.fixRecord 0x4E#8 = (emptyNotice, false) := by
  rw [PortRec.fixRecord, if_neg (by decide), if_pos rfl, h]

theorem fixRecord_pstat (r : PortRec) : r.fixRecord 0x53#8 = (r.detail, true) := by
  rw [PortRec.fixRecord, if_neg (by decide), if_neg (by decide), if_pos rfl]

theorem detail_length (r : PortRec) : r.detail.length = 11 := rfl

theorem shiftedOut_zero (record : List Byte) : shiftedOut record 0 = [] := by simp [shiftedOut]

/-- A record of which every byte is clocked out is shifted out whole, and filler after it. -/
theorem shiftedOut_whole {record : List Byte} {n : Nat} (h : record.length ≤ n) :
    shiftedOut record n = record ++ List.replicate (n - record.length) 0x00#8 := by
  rw [shiftedOut, List.take_of_length_le h]

end

/-! ### The three cases of a frame with a check byte -/

/-- A frame of a code whose bytes are judged by their check byte first, and then by a rule of its own. -/
def CheckedBy (p : PortId) (code : Byte) (frame : List Byte → Instr) (act : Nat → Bool → Nat → State → State) : Prop :=
  ∀ sent s, exec (frame sent) s =
    .next (releaseWire p code sent.length (fun held len => checkedFrame p sent (act sent.length held len)) s)

/-- The rule of a frame that completes where a record of the port's was clocked out whole. -/
def completing (done : State → State) (n : Nat) (held : Bool) (len : Nat) (s : State) : State :=
  if held ∧ len ≤ n then done s else s

theorem fetch_checkedBy (p : PortId) : CheckedBy p 0x46#8 (.fetch p) (completing (completeFetch p)) := fun _ _ => rfl
theorem note_checkedBy (p : PortId) : CheckedBy p 0x4E#8 (.note p) (completing (completeNote p)) := fun _ _ => rfl
theorem pstat_checkedBy (p : PortId) : CheckedBy p 0x53#8 (.pstat p) (completing (completePstat p)) := fun _ _ => rfl
theorem preset_checkedBy (p : PortId) : CheckedBy p 0x5A#8 (.preset p) (fun _ _ _ => resetPort p) := fun _ _ => rfl

section
variable {s : State} {p : PortId} {code status : Byte} {record : List Byte} {held : Bool} {frame : List Byte → Instr}
  {act : Nat → Bool → Nat → State → State}

/-- Status-only: a frame released after its code byte changes nothing but the bytes shifted out (R161). -/
theorem CheckedBy.codeAlone (hf : CheckedBy p code frame act) (h : (s.port p).wireAt code = some (status, record, held)) :
    exec (frame []) s = .next (endFrame p (status :: shiftedOut record 0) s) := by
  rw [hf, releaseWire_of_wireAt h]
  rfl

/-- A frame with a wrong check byte is discarded with cause CRC after its bytes were shifted out (R161, R163). -/
theorem CheckedBy.wrongCheck (hf : CheckedBy p code frame act) (h : (s.port p).wireAt code = some (status, record, held))
    {check : Byte} (hc : check ≠ 0xFF#8) (more : List Byte) : exec (frame (check :: more)) s =
      .next (discard p .crc (endFrame p (status :: shiftedOut record (more.length + 1)) s)) := by
  rw [hf, releaseWire_of_wireAt h]
  simp only [checkedFrame, if_neg hc, List.length_cons]

theorem CheckedBy.rightCheck (hf : CheckedBy p code frame act) (h : (s.port p).wireAt code = some (status, record, held))
    (more : List Byte) : exec (frame (0xFF#8 :: more)) s = .next (act (more.length + 1) held record.length
      (endFrame p (status :: shiftedOut record (more.length + 1)) s)) := by
  rw [hf, releaseWire_of_wireAt h]
  simp only [checkedFrame, if_true, List.length_cons]

/-- The release of any frame that a device reset ended makes the wire idle and changes nothing else (R159). -/
theorem releaseWire_of_disregarded (hw : (s.port p).wire = .disregarded) (code : Byte) (n : Nat)
    (judge : Bool → Nat → State → State) : releaseWire p code n judge s = s.setPort p { s.port p with wire := .idle } := by
  rw [releaseWire, PortRec.wireAt, hw]

theorem CheckedBy.disregarded (hf : CheckedBy p code frame act) (h : (s.port p).wire = .disregarded) (sent : List Byte) :
    exec (frame sent) s = .next (s.setPort p { s.port p with wire := .idle }) := by
  rw [hf, releaseWire_of_disregarded h]

variable {done : State → State}

/-- A frame completes nothing where its record was not the port's, or was cut short. -/
theorem CheckedBy.incomplete (hf : CheckedBy p code frame (completing done))
    (h : (s.port p).wireAt code = some (status, record, held)) {more : List Byte}
    (hshort : held = false ∨ more.length + 1 < record.length) : exec (frame (0xFF#8 :: more)) s =
      .next (endFrame p (status :: shiftedOut record (more.length + 1)) s) := by
  have hn : ¬ (held = true ∧ record.length ≤ more.length + 1) := fun ⟨hheld, hlen⟩ =>
    hshort.elim (fun hfalse => Bool.noConfusion (hheld.symm.trans hfalse)) (Nat.not_lt.mpr hlen)
  rw [hf.rightCheck h, completing, if_neg hn]

/-- A frame completes where it clocked out a record of the port's whole. -/
theorem CheckedBy.complete (hf : CheckedBy p code frame (completing done))
    (h : (s.port p).wireAt code = some (status, record, true)) {more : List Byte}
    (hlen : record.length ≤ more.length + 1) : exec (frame (0xFF#8 :: more)) s =
      .next (done (endFrame p (status :: shiftedOut record (more.length + 1)) s)) := by
  rw [hf.rightCheck h, completing, if_pos ⟨rfl, hlen⟩]

/-! ### What a completed frame changes -/

theorem discard_endFrame (cause : DiscardCause) (out : List Byte) : discard p cause (endFrame p out s) =
    s.setPort p { s.port p with wire := .idle, sdo := out, ferr := true, cause := cause } := by
  simp [discard, endFrame]

theorem completeFetch_endFrame (out : List Byte) {response : Response} {rest : List Response}
    (h : (s.port p).responses = response :: rest) : completeFetch p (endFrame p out s) = s.setPort p
      { s.port p with
        wire := .idle
        sdo := out
        responses := rest
        credits := (s.port p).credits + 1
        attn := (s.settings.respMask[p] && !rest.isEmpty) ||
          (s.settings.noteMask[p] && !(s.port p).notices.isEmpty) } := by
  simp [completeFetch, endFrame, h, PortRec.evalAttn, attnWanted]

theorem completeNote_endFrame (out : List Byte) {notice : Notice} {rest : List Notice}
    (h : (s.port p).notices = notice :: rest) : completeNote p (endFrame p out s) = s.setPort p
      { s.port p with
        wire := .idle
        sdo := out
        notices := rest
        attn := (s.settings.respMask[p] && !(s.port p).responses.isEmpty) ||
          (s.settings.noteMask[p] && !rest.isEmpty) } := by
  simp [completeNote, endFrame, h, PortRec.evalAttn, attnWanted]

theorem completePstat_endFrame (out : List Byte) : completePstat p (endFrame p out s) =
    s.setPort p { s.port p with wire := .idle, sdo := out, ferr := false, cause := .none } := by
  simp [completePstat, endFrame]

end

/-! ### Frames at an idle wire -/

/-- Settles O11: the record is the head of its queue, clocked out whole. -/
theorem completedFetchAndNote : Obligations.CompletedFetchAndNote := by
  refine ⟨fun p more s r rest hw hr hlen => ?_, fun p more s n rest hw hn hlen => ?_⟩
  · rw [(fetch_checkedBy p).complete ((wireAt_of_idle hw _).trans (by rw [fixRecord_fetch hr])) hlen,
      completeFetch_endFrame _ hr, shiftedOut_whole hlen]
  · rw [(note_checkedBy p).complete ((wireAt_of_idle hw _).trans (by rw [fixRecord_note hn])) hlen,
      completeNote_endFrame _ hn, shiftedOut_whole hlen]

/-- Settles O12: the record is the status detail, of ten bytes and its CRC. -/
theorem completedPstat : Obligations.CompletedPstat := fun p more s hw hlen => by
  have hwhole : (s.port p).detail.length ≤ more.length + 1 := by
    rw [detail_length]
    omega
  rw [(pstat_checkedBy p).complete ((wireAt_of_idle hw _).trans (by rw [fixRecord_pstat])) hwhole, completePstat_endFrame,
    shiftedOut_whole hwhole, detail_length, Nat.add_sub_add_right]

section
variable {s : State} {p : PortId} {code : Byte} {frame : List Byte → Instr}

/-- A frame that ends at an idle wire leaves the wire as it was. -/
theorem endFrame_of_idle (hw : (s.port p).wire = .idle) (out : List Byte) :
    endFrame p out s = s.setPort p { s.port p with sdo := out } := by
  rw [endFrame, ← hw]

/-- The discard of a frame that ends at an idle wire leaves the wire as it was. -/
theorem discard_endFrame_of_idle (hw : (s.port p).wire = .idle) (cause : DiscardCause) (out : List Byte) :
    discard p cause (endFrame p out s) = s.setPort p { s.port p with sdo := out, ferr := true, cause := cause } := by
  rw [discard_endFrame, ← hw]

theorem CheckedBy.codeAlone_of_idle {act : Nat → Bool → Nat → State → State} (hf : CheckedBy p code frame act)
    (hw : (s.port p).wire = .idle) :
    exec (frame []) s = .next (s.setPort p { s.port p with sdo := [(s.port p).statusByte] }) := by
  rw [hf.codeAlone (wireAt_of_idle hw code), endFrame_of_idle hw, shiftedOut_zero]

theorem CheckedBy.wrongCheck_of_idle {act : Nat → Bool → Nat → State → State} (hf : CheckedBy p code frame act)
    (hw : (s.port p).wire = .idle) {check : Byte} (hc : check ≠ 0xFF#8) (more : List Byte) :
    ∃ out, exec (frame (check :: more)) s =
      .next (s.setPort p { s.port p with sdo := out, ferr := true, cause := .crc }) :=
  ⟨_, by rw [hf.wrongCheck (wireAt_of_idle hw code) hc, discard_endFrame_of_idle hw]⟩

/-- A frame whose fixed record is not the port's, or is cut short, changes the bytes shifted out alone. -/
theorem CheckedBy.incomplete_of_idle {done : State → State} (hf : CheckedBy p code frame (completing done))
    (hw : (s.port p).wire = .idle) {more : List Byte}
    (hshort : ((s.port p).fixRecord code).2 = false ∨ more.length + 1 < ((s.port p).fixRecord code).1.length) :
    ∃ out, exec (frame (0xFF#8 :: more)) s = .next (s.setPort p { s.port p with sdo := out }) :=
  ⟨_, by rw [hf.incomplete (wireAt_of_idle hw code) hshort, endFrame_of_idle hw]⟩

theorem fetch_cutShort {more : List Byte}
    (h : ∀ r rest, (s.port p).responses = r :: rest → more.length + 1 < r.bytes.length) :
    ((s.port p).fixRecord 0x46#8).2 = false ∨ more.length + 1 < ((s.port p).fixRecord 0x46#8).1.length := by
  cases hr : (s.port p).responses with
  | nil => exact .inl (by rw [fixRecord_fetch_empty hr])
  | cons r rest => exact .inr (by rw [fixRecord_fetch hr]; exact h r rest hr)

theorem note_cutShort {more : List Byte}
    (h : ∀ n rest, (s.port p).notices = n :: rest → more.length + 1 < n.bytes.length) :
    ((s.port p).fixRecord 0x4E#8).2 = false ∨ more.length + 1 < ((s.port p).fixRecord 0x4E#8).1.length := by
  cases hn : (s.port p).notices with
  | nil => exact .inl (by rw [fixRecord_note_empty hn])
  | cons n rest => exact .inr (by rw [fixRecord_note hn]; exact h n rest hn)

/-- A frame of an unknown code is released as any other frame, and discarded with cause FRAME_CODE (R161, R172). -/
theorem exec_unknownFrameCode (hc : code ∉ knownFrameCodes) (sent : List Byte) (s : State) :
    exec (.unknownFrameCode p code sent) s = .next (releaseWire p code sent.length (fun _ _ => discard p .frameCode) s) :=
  congrArg Host.Outcome.next (if_neg fun h => hc (List.contains_iff_mem.mp h))

theorem exec_unknownFrameCode_of_idle (hw : (s.port p).wire = .idle) (hc : code ∉ knownFrameCodes) (sent : List Byte) :
    exec (.unknownFrameCode p code sent) s = .next (s.discarded p sent.length .frameCode) := by
  have hne : ∀ known ∈ knownFrameCodes, code ≠ known := fun known hk h => hc (h ▸ hk)
  rw [exec_unknownFrameCode hc, releaseWire_of_filler hw (hne _ (by decide)) (hne _ (by decide)) (hne _ (by decide)),
    discard_fillerOut]

end

/-- Settles O13: status-only, cut short, a wrong check byte and an unknown code, each said of the frames one after another. -/
theorem framesThatCompleteNothing : Obligations.FramesThatCompleteNothing := fun p s hw => by
  refine ⟨?_, fun more c h => ?_, fun check more c hc h => ?_, fun code sent hc => exec_unknownFrameCode_of_idle hw hc sent⟩
  · rintro c (rfl | rfl | rfl | rfl)
    · exact (fetch_checkedBy p).codeAlone_of_idle hw
    · exact (note_checkedBy p).codeAlone_of_idle hw
    · exact (pstat_checkedBy p).codeAlone_of_idle hw
    · exact (preset_checkedBy p).codeAlone_of_idle hw
  · rcases h with ⟨rfl, hshort⟩ | ⟨rfl, hshort⟩ | ⟨rfl, hshort⟩
    · exact (fetch_checkedBy p).incomplete_of_idle hw (fetch_cutShort hshort)
    · exact (note_checkedBy p).incomplete_of_idle hw (note_cutShort hshort)
    · refine (pstat_checkedBy p).incomplete_of_idle hw (.inr ?_)
      rw [fixRecord_pstat, detail_length]
      omega
  · rcases h with rfl | rfl | rfl | rfl
    · exact (fetch_checkedBy p).wrongCheck_of_idle hw hc more
    · exact (note_checkedBy p).wrongCheck_of_idle hw hc more
    · exact (pstat_checkedBy p).wrongCheck_of_idle hw hc more
    · exact (preset_checkedBy p).wrongCheck_of_idle hw hc more

/-! ### Frames at a coded wire -/

section
variable {s : State} {p : PortId} {status code : Byte} {record : List Byte} {held : Bool}

theorem wireAt_of_coded (h : (s.port p).wire = .coded status code record held) :
    (s.port p).wireAt code = some (status, record, held) := by
  rw [PortRec.wireAt, h]
  exact if_pos rfl

/-- The code byte of a frame fixes what is then clocked out (R160, R166 to R168, R178). -/
theorem fixes_of_fixRecord (hw : (s.port p).wire = .begun status ∨ ((s.port p).wire = .idle ∧ status = (s.port p).statusByte))
    (hfix : (s.port p).fixRecord code = (record, held)) : exec (.frameCodeByteEnd p (.codeByteEnd code)) s =
      .next (s.setPort p { s.port p with wire := .coded status code record held, sdo := [status] }) := by
  rw [exec_codeByteEnd s hw, hfix]

/-- A frame of the code that was fixed: its four releases (R161, R163). -/
theorem CheckedBy.releases_of_coded {frame : List Byte → Instr} {done : State → State}
    (hf : CheckedBy p code frame (completing done)) (hw : (s.port p).wire = .coded status code record held) :
    exec (frame []) s = .next (endFrame p (status :: shiftedOut record 0) s) ∧
    (∀ check more, check ≠ 0xFF#8 → exec (frame (check :: more)) s = .next (s.setPort p
      { s.port p with
        wire := .idle, sdo := status :: shiftedOut record (more.length + 1), ferr := true, cause := .crc })) ∧
    ∀ more : List Byte,
      (held = false ∨ more.length + 1 < record.length → exec (frame (0xFF#8 :: more)) s =
        .next (endFrame p (status :: shiftedOut record (more.length + 1)) s)) ∧
      (held = true → record.length ≤ more.length + 1 → exec (frame (0xFF#8 :: more)) s =
        .next (done (endFrame p (status :: shiftedOut record (more.length + 1)) s))) := by
  have hat := wireAt_of_coded hw
  refine ⟨hf.codeAlone hat, fun check more hc => ?_, fun more => ⟨hf.incomplete hat, fun hheld => ?_⟩⟩
  · rw [hf.wrongCheck hat hc, discard_endFrame]
  · exact hf.complete (hheld ▸ hat)

end

/-- Settles O14: the two ends of the code byte, the releases of a frame whose record was fixed, and a disregarded wire. -/
theorem frameCodeFixesRecord : Obligations.FrameCodeFixesRecord := by
  refine ⟨fun p s => exec_csnAsserted s p, fun p s status hw => ?_, fun p s status code record held hw => ?_,
    fun p s hw => ⟨exec_codeByteEnd_of_disregarded s hw, ?_⟩⟩
  · exact ⟨fun r rest hr => fixes_of_fixRecord hw (fixRecord_fetch hr),
      fun hr => fixes_of_fixRecord hw (fixRecord_fetch_empty hr),
      fun n rest hn => fixes_of_fixRecord hw (fixRecord_note hn),
      fun hn => fixes_of_fixRecord hw (fixRecord_note_empty hn),
      fixes_of_fixRecord hw (fixRecord_pstat _),
      fun code hfetch hnote hpstat => fixes_of_fixRecord hw (fixRecord_of_filler _ hfetch hnote hpstat)⟩
  · rintro shifted ended frame (⟨rfl, rfl⟩ | ⟨rfl, rfl⟩ | ⟨rfl, rfl⟩)
    · obtain ⟨hnone, hwrong, hright⟩ := (fetch_checkedBy p).releases_of_coded hw
      refine ⟨hnone, hwrong, fun more => ⟨(hright more).1, fun hheld hlen =>
        ⟨fun r rest _ hr => ?_, fun _ _ h => absurd h (by decide), fun h => absurd h (by decide)⟩⟩⟩
      rw [(hright more).2 hheld hlen, completeFetch_endFrame _ hr]
      rfl
    · obtain ⟨hnone, hwrong, hright⟩ := (note_checkedBy p).releases_of_coded hw
      refine ⟨hnone, hwrong, fun more => ⟨(hright more).1, fun hheld hlen =>
        ⟨fun _ _ h => absurd h (by decide), fun n rest _ hn => ?_, fun h => absurd h (by decide)⟩⟩⟩
      rw [(hright more).2 hheld hlen, completeNote_endFrame _ hn]
      rfl
    · obtain ⟨hnone, hwrong, hright⟩ := (pstat_checkedBy p).releases_of_coded hw
      refine ⟨hnone, hwrong, fun more => ⟨(hright more).1, fun hheld hlen =>
        ⟨fun _ _ h => absurd h (by decide), fun _ _ h => absurd h (by decide), fun _ => ?_⟩⟩⟩
      rw [(hright more).2 hheld hlen, completePstat_endFrame]
      rfl
  · rintro sent c (rfl | rfl | rfl | rfl | rfl | ⟨code, hc, rfl⟩)
    · exact congrArg Host.Outcome.next (releaseWire_of_disregarded hw ..)
    · exact (fetch_checkedBy p).disregarded hw sent
    · exact (note_checkedBy p).disregarded hw sent
    · exact (pstat_checkedBy p).disregarded hw sent
    · exact (preset_checkedBy p).disregarded hw sent
    · rw [exec_unknownFrameCode hc, releaseWire_of_disregarded hw]

end Sys2Proof.Machine
end

-- ==== Steps, and events that are not due ====
section
/-! PROOFS. A step takes the command at the front of the queue; and each event of the part, commanded while its condition does
not stand, leaves the state as it is. -/

namespace Sys2Proof.Machine

/-- Settles O1, by the two shapes of the queue. -/
theorem stepTakesFrontCommand : Obligations.StepTakesFrontCommand :=
  ⟨fun _ _ _ => rfl, fun _ => rfl⟩

section
variable {s : State}

/-! ### The sweep -/

theorem exec_initializationSweep_of_not_inReset (h : s.phase ≠ .inReset) : exec .initializationSweep s = .next s := by
  refine congrArg Host.Outcome.next ?_
  cases hphase : s.phase with
  | inReset => exact absurd hphase h
  | sweeping => rfl
  | running => rfl

theorem exec_sweepEnd_of_not_sweeping (h : s.phase ≠ .sweeping) : exec .sweepEnd s = .next s := by
  refine congrArg Host.Outcome.next ?_
  cases hphase : s.phase with
  | inReset => rfl
  | sweeping => exact absurd hphase h
  | running => rfl

/-! ### The ends of reads and placements -/

theorem exec_readCompletion_of_unfinished {p : PortId}
    (h : ∀ r session pins data, (s.port p).inService ≠ some ⟨r, session, .reading pins [] data⟩) :
    exec (.readCompletion p) s = .next s := by
  refine congrArg Host.Outcome.next ?_
  split
  · next hserv => exact absurd hserv (h _ _ _ _)
  · rfl

theorem exec_writePlacementEnd_of_unfinished {p : PortId}
    (h : ∀ r session pf write zeroed, (s.port p).inService ≠ some ⟨r, session, .placing pf write [] zeroed⟩) :
    exec (.writePlacementEnd p) s = .next s := by
  refine congrArg Host.Outcome.next ?_
  split
  · next hserv => exact absurd hserv (h _ _ _ _ _)
  · rfl

/-! ### The ends of jobs -/

/-- A COPY or ZERO job completes only as the active job, after its last placement access (R70). -/
theorem exec_jobCompletion_of_unfinished
    (h : ∀ job rest, s.jobs = job :: rest → job.progress ≠ .place [] ∨ job.isRelocate = true) :
    exec .jobCompletion s = .next s := by
  refine congrArg Host.Outcome.next ?_
  split
  · next hjobs => exact (h _ _ hjobs).elim (fun hplace => absurd rfl hplace) nofun
  · next hjobs => exact (h _ _ hjobs).elim (fun hplace => absurd rfl hplace) nofun
  · rfl

/-- The switch is taken only for a RELOCATE job that is the active one, after its last target write (R143). -/
theorem exec_relocationSwitch_of_unfinished
    (h : ∀ job rest, s.jobs = job :: rest → job.progress ≠ .place [] ∨ job.isRelocate = false) :
    exec .relocationSwitch s = .next s := by
  refine congrArg Host.Outcome.next ?_
  split
  · next hjobs => exact (h _ _ hjobs).elim (fun hplace => absurd rfl hplace) nofun
  · rfl

theorem exec_relocationStart_of_unlisted (h : s.relocations = []) : exec .relocationStart s = .next s :=
  congrArg Host.Outcome.next (startRelocation_of_none (relocationDue_nil h))

/-! ### The Scrubber -/

theorem exec_scrubVisit_of_not_due (h : s.timer ≠ some 0 ∨ s.scrub ≠ none) : exec .scrubVisit s = .next s :=
  congrArg Host.Outcome.next (if_neg fun ⟨htimer, hscrub⟩ => h.elim (· htimer) (· hscrub))

theorem exec_scrubReadEnd_of_unfinished (h : ∀ r, s.scrub = some r → r.next < 64) : exec .scrubReadEnd s = .next s := by
  refine congrArg Host.Outcome.next ?_
  cases hscrub : s.scrub with
  | none => rfl
  | some r => exact if_pos (h r hscrub)

/-! ### The arbiter -/

/-- Where none of the seven clients waits there is none to grant (R33). -/
theorem nextClient_eq_none (h : ∀ c, 1 ≤ c → c ≤ 7 → clientWaits s c = false) : nextClient s = none := by
  cases hnext : nextClient s with
  | none => rfl
  | some c =>
    obtain ⟨h1, h7, hwaits, _⟩ := nextClient_spec hnext
    exact Bool.noConfusion ((h c h1 h7).symm.trans hwaits)

theorem exec_grant_of_none_waiting (h : ∀ c, 1 ≤ c → c ≤ 7 → clientWaits s c = false) (flips : BitVec 39) :
    exec (.storeArbiterGrant flips) s = .next s := by
  simp only [exec, execStoreArbiterGrant, grant, nextClient_eq_none h]

end

/-- Settles O6, event by event. -/
theorem eventNotDueChangesNothing : Obligations.EventNotDueChangesNothing := fun _ =>
  ⟨exec_initializationSweep_of_not_inReset, exec_sweepEnd_of_not_sweeping,
    fun _ => exec_readCompletion_of_unfinished, fun _ => exec_writePlacementEnd_of_unfinished,
    exec_jobCompletion_of_unfinished, exec_relocationSwitch_of_unfinished, exec_relocationStart_of_unlisted,
    exec_scrubVisit_of_not_due, exec_scrubReadEnd_of_unfinished,
    fun flips h => exec_grant_of_none_waiting h flips⟩

end Sys2Proof.Machine
end
